-- ==== Sys2Proof/Word.lean ====
section
/-! DEFINITION. The words of the unit (00_scope.md R8): bytes, u16 and u32, and byte sequences. -/

namespace Sys2Proof

/-- A byte: 8 bits, unsigned (R8). -/
abbrev Byte := BitVec 8

/-- An unsigned 16-bit integer (R8). -/
abbrev U16 := BitVec 16

/-- An unsigned 32-bit integer (R8). -/
abbrev U32 := BitVec 32

/-- A byte sequence, indexed from 0 (R8, R40): a record, a payload, or the contents of an address space. -/
abbrev Bytes := List Byte

end Sys2Proof
end

