-- ==== Sys2Proof/Config.lean ====
section
/-! DEFINITION. The constants the source fixes (00_scope.md R6) and the parameters it leaves to the implementation
(R7). A parameter record is plain data and stands in the state, where no rule writes it (R211). -/

namespace Sys2Proof

namespace Config

/-- `DICT_MAX` (R6): most CDIC blobs the unit holds. -/
def dictMax : Nat := 32
/-- `HUFF_HDR_LEN` (R6): bytes of HuffHeader, and the required `cacheOffset`. -/
def huffHdrLen : Nat := 24
/-- `CACHE_BYTES` (R6): bytes of the big-endian cache table image. -/
def cacheBytes : Nat := 1024
/-- `BASE_BYTES` (R6): bytes of the big-endian base table image. -/
def baseBytes : Nat := 256
/-- `HUFF_MIN_LEN` (R6): least HUFF record length that SET_HUFF accepts. -/
def huffMinLen : Nat := huffHdrLen + cacheBytes + baseBytes
/-- `CDIC_HDR_LEN` (R6): bytes of CdicHeader. -/
def cdicHdrLen : Nat := 16
/-- `CDIC_CODELEN_OFF` (R6): offset of `codeLength` in CdicHeader. -/
def cdicCodeLenOff : Nat := 12
/-- `LIT_MAX` (R6): most bytes a literal dictionary entry may hold. -/
def litMax : Nat := 127
/-- `WINDOW_BITS` (R6): width of the sliding window, and the longest code. -/
def windowBits : Nat := 32
/-- `PEEK_BITS` (R6): bits of the window that index the cache table. -/
def peekBits : Nat := 8
/-- `LEN_MIN` (R6): least back-reference copy length. -/
def lenMin : Nat := 3
/-- The magic of a HUFF record (R46): "HUFF". -/
def huffMagic : Bytes := [0x48, 0x55, 0x46, 0x46]
/-- The magic of a CDIC record (R46, 90_conflicts.md C1): "CDIC". -/
def cdicMagic : Bytes := [0x43, 0x44, 0x49, 0x43]

/-- Some function u32 × u32 × length → u32 that is not the formula of R124 or R126: what a parameter `CodeT` or
`CodeB` set to `CodeFn.other k` computes. It has no body, so nothing can be proved of its values
(notes/assumptions/5.md). -/
opaque otherCode (k : Nat) (word window : U32) (len : Nat) : U32

end Config

/-- `GUARD_KEY` (R7, R146): what the recursion guard is keyed by. -/
inductive GuardKey where
  | full
  | masked
  deriving DecidableEq, Repr

/-- `CDIC_SIZE_CHECK` (R7, R106): which size test ADD_CDIC applies. -/
inductive CdicSizeCheck where
  | doc
  | inverse
  | none
  deriving DecidableEq, Repr

/-- `STRADDLE_POLICY` (R7, R128): what a code that runs past the end of its bit stream does. -/
inductive StraddlePolicy where
  | warn
  | fault
  deriving DecidableEq, Repr

/-- `CodeT` and `CodeB` (R7): the formula of R124 or R126, or another function, named by a number. -/
inductive CodeFn where
  | formula
  | other (k : Nat)
  deriving DecidableEq, Repr

/-- The parameters of R7. The values given here are its defaults. -/
structure Params where
  /-- `OUT_MAX`: most bytes the output buffer may hold. -/
  outMax : Option Nat := Option.none
  /-- `GUARD_CAP`: most frames the recursion guard may hold. -/
  guardCap : Option Nat := Option.none
  /-- `GUARD_KEY`. -/
  guardKey : GuardKey := .full
  /-- `CDIC_SIZE_CHECK`. -/
  cdicSizeCheck : CdicSizeCheck := .doc
  /-- `STRADDLE_POLICY`. -/
  straddlePolicy : StraddlePolicy := .warn
  /-- `CodeT`. -/
  codeT : CodeFn := .formula
  /-- `CodeB`. -/
  codeB : CodeFn := .formula
  deriving DecidableEq, Repr

end Sys2Proof
end

