-- ==== Sys2Proof/Syntax.lean ====
section
/-! DEFINITION. The instructions of the unit (30_encoding.md R60): one constructor for each mnemonic of the opcode
table. The table's 7 rows of LIT and 4 rows of RUN only split the control byte range of ONE instruction into disjoint
match/mask pairs (R74); they are one constructor each (notes/assumptions/10.md). -/

namespace Sys2Proof

/-- One instruction of the three instruction sets of R60. -/
inductive Instr where
  /-- LIT (R83): the control byte itself, 0x00 or 0x09..0x7F, is the literal. -/
  | lit (c : Byte)
  /-- RUN (R82): the 1 to 8 raw bytes that follow the control byte; their count is the control byte. -/
  | run (data : Bytes)
  /-- BREF (R84): the distance `v[13:3]` and the length field `v[2:0]` (the length is the field plus 3). -/
  | bref (dist : BitVec 11) (lenField : BitVec 3)
  /-- SPC (R85): the low six bits of the control byte. -/
  | spc (low : BitVec 6)
  /-- HCODE.T (R124): a cache word with bit 7 set; maxcode `v[31:8]`, the ignored bits `v[6:5]`, the length `v[4:0]`. -/
  | hcodeT (maxcode : BitVec 24) (ignored : BitVec 2) (len : BitVec 5)
  /-- HCODE.B (R125, R126): a cache word with bit 7 clear; the ignored bits `v[31:8]` and `v[6:5]`, the length `v[4:0]`. -/
  | hcodeB (unused : BitVec 24) (ignored : BitVec 2) (len : BitVec 5)
  /-- ENT.LIT (R145): an entry header with bit 15 set; the length `symLen[14:0]`. -/
  | entLit (len : BitVec 15)
  /-- ENT.REC (R146): an entry header with bit 15 clear; the length `symLen[14:0]`. -/
  | entRec (len : BitVec 15)
  /-- RESET (R163). -/
  | reset
  /-- SET_HUFF (R101, R103) with its record HUFFREC. -/
  | setHuff (record : Bytes)
  /-- ADD_CDIC (R105) with its record CDICREC. -/
  | addCdic (record : Bytes)
  /-- DECOMP_PALM (R80) with its payload IN. -/
  | decompPalm (payload : Bytes)
  /-- DECOMP_HUFF (R120) with its payload IN. -/
  | decompHuff (payload : Bytes)
  deriving DecidableEq, Repr

/-- A command as the host issues it (R160): a name and an argument. A byte sequence carries its own length n. -/
inductive HostCmd where
  | reset
  | setHuff (record : Bytes)
  | addCdic (record : Bytes)
  | decompPalm (payload : Bytes)
  | decompHuff (payload : Bytes)
  deriving DecidableEq, Repr

/-- The instruction a host command is. -/
def HostCmd.instr : HostCmd → Instr
  | .reset => .reset
  | .setHuff r => .setHuff r
  | .addCdic r => .addCdic r
  | .decompPalm p => .decompPalm p
  | .decompHuff p => .decompHuff p

end Sys2Proof
end

