-- ==== Sys2Proof/WellFormed.lean ====
section
/-! DEFINITION. Which instructions the encodings of 30_encoding.md can express. -/

namespace Sys2Proof

/-- The control bytes of LIT (R62): 0x00 and 0x09..0x7F. -/
def litByte (c : Byte) : Bool := c == 0 || (decide (9 ≤ c.toNat) && decide (c.toNat < 128))

/-- The run lengths of RUN (R64): 1 to 8. -/
def runLength (k : Nat) : Bool := decide (1 ≤ k) && decide (k ≤ 8)

/-- An instruction that some word of the opcode table encodes. LIT's byte lies in its class and RUN carries 1 to 8
bytes; every field of the other instructions is as wide as its encoding, so every value of it is encodable
(a BREF of distance 0 and a code of length 0 are encodable and fault when executed, R63, R123). -/
def Instr.wellFormed : Instr → Bool
  | .lit c => litByte c
  | .run data => runLength data.length
  | .bref _ _ => true
  | .spc _ => true
  | .hcodeT _ _ _ => true
  | .hcodeB _ _ _ => true
  | .entLit _ => true
  | .entRec _ => true
  | .reset => true
  | .setHuff _ => true
  | .addCdic _ => true
  | .decompPalm _ => true
  | .decompHuff _ => true

end Sys2Proof
end

