-- ==== Sys2Proof/Decode.lean ====
section
/-! DEFINITION. The decoder and the encoder of the three encodings (30_encoding.md): LZ instructions from bytes, HD
codes from a cache word, dictionary entries from an entry header. Host commands have no encoding (R71). -/

namespace Sys2Proof

/-- Why bytes are no instruction. -/
inductive DecodeError where
  /-- no byte at all -/
  | empty
  /-- a RUN whose bytes are not all there (R65) -/
  | truncatedRun
  /-- a BREF without its second byte (R65) -/
  | truncatedBref
  /-- fewer than the four bytes of a cache word -/
  | truncatedCacheWord
  /-- fewer than the two bytes of an entry header -/
  | truncatedEntryHeader
  deriving DecidableEq, Repr

/-- What the decoder reads from a byte sequence: an instruction and the bytes after it, or a named rejection. -/
inductive Decoded where
  | ok (i : Instr) (rest : Bytes)
  | error (e : DecodeError)
  deriving DecidableEq, Repr

/-- Which of the three encodings a word belongs to (R60). -/
inductive Encoding where
  /-- bytes of an LZ stream -/
  | lz
  /-- a 32-bit cache word, which selects the form of an HD code -/
  | cacheWord
  /-- a 16-bit symLen, which selects the form of a dictionary entry -/
  | entryHeader
  deriving DecidableEq, Repr

/-! ### Bit fields -/

/-- `v` of a BREF (R63): control byte high, second byte low. -/
def brefWord (c b : Byte) : U16 := c ++ b

/-- `v[13:3]` (R63). -/
def brefDist (v : U16) : BitVec 11 := v.extractLsb' 3 11

/-- `v[2:0]` (R63); the copy length is this plus 3. -/
def brefLenField (v : U16) : BitVec 3 := v.extractLsb' 0 3

/-- `v` of a BREF from its fields (R61, R72): bits 15:14 are `10`. -/
def brefWordOf (dist : BitVec 11) (lenField : BitVec 3) : U16 := 0b10#2 ++ dist ++ lenField

/-- The `len` field of a cache word (R17), bits 4:0. -/
def cacheLen (v : U32) : BitVec 5 := v.extractLsb' 0 5

/-- The bits 6:5 of a cache word (R17), used by no rule. -/
def cacheIgnored (v : U32) : BitVec 2 := v.extractLsb' 5 2

/-- The terminal flag of a cache word (R17), bit 7. -/
def cacheTerm (v : U32) : Bool := v.getLsbD 7

/-- The `maxcode` field of a cache word (R17), bits 31:8. -/
def cacheMaxcode (v : U32) : BitVec 24 := v.extractLsb' 8 24

/-- The cache word of a code's fields (R17, R66). -/
def cacheWordOf (term : Bool) (maxcode : BitVec 24) (ignored : BitVec 2) (len : BitVec 5) : U32 :=
  maxcode ++ BitVec.ofBool term ++ ignored ++ len

/-- The `lit` flag of an entry header (R68), bit 15. -/
def entryLit (h : U16) : Bool := h.getLsbD 15

/-- The `len` field of an entry header (R68), bits 14:0. -/
def entryLen (h : U16) : BitVec 15 := h.extractLsb' 0 15

/-- The entry header of an entry's fields (R68). -/
def entryHeaderOf (lit : Bool) (len : BitVec 15) : U16 := BitVec.ofBool lit ++ len

/-- The first byte, most significant, of a u16 (R41). -/
def hiByte (h : U16) : Byte := h.extractLsb' 8 8

/-- The second byte of a u16 (R41). -/
def loByte (h : U16) : Byte := h.extractLsb' 0 8

/-- The four bytes of a u32, most significant first (R41). -/
def bytesOf32 (v : U32) : Bytes :=
  [v.extractLsb' 24 8, v.extractLsb' 16 8, v.extractLsb' 8 8, v.extractLsb' 0 8]

/-! ### The decoder -/

/-- The LZ instruction at the head of a byte sequence. The class is selected by the control byte alone, in the order
of tests of 40_lz_stream.md R81; every control byte is assigned (R62). -/
def decodeLz : Bytes → Decoded
  | [] => .error .empty
  | c :: rest =>
    if 1 ≤ c.toNat ∧ c.toNat ≤ 8 then
      if rest.length < c.toNat then .error .truncatedRun
      else .ok (.run (rest.take c.toNat)) (rest.drop c.toNat)
    else if c.toNat < 128 then .ok (.lit c) rest
    else if c.toNat < 192 then
      match rest with
      | [] => .error .truncatedBref
      | b :: rest' => .ok (.bref (brefDist (brefWord c b)) (brefLenField (brefWord c b))) rest'
    else .ok (.spc (c.extractLsb' 0 6)) rest

/-- The form of HD code a cache word selects (30_encoding.md R66): bit 7 tells HCODE.T from HCODE.B. -/
def decodeCacheWord (v : U32) : Instr :=
  if cacheTerm v then .hcodeT (cacheMaxcode v) (cacheIgnored v) (cacheLen v)
  else .hcodeB (cacheMaxcode v) (cacheIgnored v) (cacheLen v)

/-- The form of dictionary entry a header selects (R68): bit 15 tells ENT.LIT from ENT.REC. -/
def decodeEntryHeader (h : U16) : Instr :=
  if entryLit h then .entLit (entryLen h) else .entRec (entryLen h)

/-- The instruction at the head of a byte sequence in one of the three encodings; multi-byte words are big-endian
(R41). -/
def decode (e : Encoding) (bs : Bytes) : Decoded :=
  match e with
  | .lz => decodeLz bs
  | .cacheWord =>
    match bs with
    | a :: b :: c :: d :: rest => .ok (decodeCacheWord (a ++ b ++ c ++ d)) rest
    | _ => .error .truncatedCacheWord
  | .entryHeader =>
    match bs with
    | a :: b :: rest => .ok (decodeEntryHeader (a ++ b)) rest
    | _ => .error .truncatedEntryHeader

/-! ### The encoder -/

/-- The encoding and the bytes of an instruction, from the formats of R61, R66, R68 and the assembler notation of R72;
nothing for a host command (R71). -/
def encode : Instr → Option (Encoding × Bytes)
  | .lit c => some (.lz, [c])
  | .run data => some (.lz, BitVec.ofNat 8 data.length :: data)
  | .bref dist lenField => some (.lz, [hiByte (brefWordOf dist lenField), loByte (brefWordOf dist lenField)])
  | .spc low => some (.lz, [0b11#2 ++ low])
  | .hcodeT maxcode ignored len => some (.cacheWord, bytesOf32 (cacheWordOf true maxcode ignored len))
  | .hcodeB unused ignored len => some (.cacheWord, bytesOf32 (cacheWordOf false unused ignored len))
  | .entLit len => some (.entryHeader, [hiByte (entryHeaderOf true len), loByte (entryHeaderOf true len)])
  | .entRec len => some (.entryHeader, [hiByte (entryHeaderOf false len), loByte (entryHeaderOf false len)])
  | .reset => none
  | .setHuff _ => none
  | .addCdic _ => none
  | .decompPalm _ => none
  | .decompHuff _ => none

/-! ### The opcode table's numbering -/

/-- The longest LZ instruction, in bytes: a RUN of 8 (R61). -/
def maxLzBytes : Nat := 9

/-- The first `k` bytes of the LZ instruction whose bits are `w`, bit 0 being the least significant bit of the first
byte. -/
def lzBytesOfWord : Nat → Nat → Bytes
  | 0, _ => []
  | k + 1, w => BitVec.ofNat 8 w :: lzBytesOfWord k (w / 256)

/-- Which encoding a row of the opcode table with `nbits` bits belongs to: control bytes have 8, entry headers 16,
cache words 32 (notes/assumptions/11.md). -/
def encodingOfBits (nbits : Nat) : Option Encoding :=
  if nbits = 8 then some .lz else if nbits = 16 then some .entryHeader
  else if nbits = 32 then some .cacheWord else none

/-- The bytes of the instruction whose bits are `w`, as they stand in memory: LZ bytes in order with zeros above
`nbits`, the words of the HD engine big-endian. -/
def layoutWord (nbits w : Nat) : Option (Encoding × Bytes) :=
  match encodingOfBits nbits with
  | some .lz => some (.lz, lzBytesOfWord maxLzBytes (w % 2 ^ nbits))
  | some .entryHeader => some (.entryHeader, [hiByte (BitVec.ofNat 16 w), loByte (BitVec.ofNat 16 w)])
  | some .cacheWord => some (.cacheWord, bytesOf32 (BitVec.ofNat 32 w))
  | none => none

/-- The instruction the decoder reads from an instruction whose bits are `w`, numbered as the opcode table numbers
them. -/
def decodeTableWord (nbits w : Nat) : Option Instr :=
  match layoutWord nbits w with
  | some (e, bs) =>
    match decode e bs with
    | .ok i _ => some i
    | .error _ => none
  | none => none

end Sys2Proof
end

