-- ==== Sys2Proof/Machine/State.lean ====
section
/-! DEFINITION. The state of the unit (10_state.md), as plain data, and its reset value (R24). -/

namespace Sys2Proof.Machine

open Sys2Proof

/-! ### Memory -/

/-- The contents of one address space (20_memory.md R40): a finite byte sequence, the byte at address `a` in position
`a`. An address at or past the length does not exist. -/
abbrev Memory := Bytes

/-- A space as (address, byte) cells. -/
def Memory.cells (m : Memory) : List Host.Cell := (List.range m.length).zip m

/-- The cells are in canonical form: the addresses are 0, 1, ..., strictly rising, without a gap. -/
def Memory.wf (m : Memory) : Bool := decide ((Memory.cells m).map Prod.fst = List.range m.length)

/-! ### Registers -/

/-- `status` (R11). -/
inductive Status where
  | idle
  | busy
  | fault
  deriving DecidableEq, Repr

/-- The 2-bit code of `status` (R11). -/
def Status.code : Status → BitVec 2
  | .idle => 0
  | .busy => 1
  | .fault => 2

/-- The faults of the unit (60_exceptions.md R181), with `none` for no fault since reset. -/
inductive FaultName where
  | none
  | lzBadDistance
  | lzTruncated
  | huffShort
  | huffBadMagic
  | huffBadHdrLen
  | huffBadCacheOffset
  | huffBadBaseOffset
  | cdicTooMany
  | cdicShort
  | cdicBadMagic
  | cdicBadHdrLen
  | cdicBadSize
  | hdNotConfigured
  | hdZeroCodeLen
  | hdBaseScanOverflow
  | hdBadDict
  | hdBadOffset
  | hdBadSymLen
  | hdSymLenTooBig
  | hdInfiniteRecursion
  | hdStraddle
  | outOverflow
  | guardOverflow
  deriving DecidableEq, Repr

/-- The 8-bit `fault_code` of a fault (R181). -/
def FaultName.code : FaultName → Byte
  | .none => 0x00
  | .lzBadDistance => 0x01
  | .lzTruncated => 0x02
  | .huffShort => 0x10
  | .huffBadMagic => 0x11
  | .huffBadHdrLen => 0x12
  | .huffBadCacheOffset => 0x13
  | .huffBadBaseOffset => 0x14
  | .cdicTooMany => 0x18
  | .cdicShort => 0x19
  | .cdicBadMagic => 0x1A
  | .cdicBadHdrLen => 0x1B
  | .cdicBadSize => 0x1C
  | .hdNotConfigured => 0x20
  | .hdZeroCodeLen => 0x21
  | .hdBaseScanOverflow => 0x22
  | .hdBadDict => 0x23
  | .hdBadOffset => 0x24
  | .hdBadSymLen => 0x25
  | .hdSymLenTooBig => 0x26
  | .hdInfiniteRecursion => 0x27
  | .hdStraddle => 0x28
  | .outOverflow => 0x30
  | .guardOverflow => 0x31

/-- The result of a command (R71, R160): `OK`, for DECOMP_HUFF with `warn_leftover`, or `FAULT(code)`. -/
inductive CmdResult where
  | ok
  | okWarn (warn : Bool)
  | fault (f : FaultName)
  deriving DecidableEq, Repr

/-- The working latches of the LZ engine (R15). -/
structure LzLatches where
  /-- `c`: the control byte. -/
  c : Byte := 0
  /-- `v`: BREF's 16-bit value. -/
  v : U16 := 0
  /-- `dist`: `v[13:3]`. -/
  dist : BitVec 11 := 0
  /-- `len`: `v[2:0] + 3`. -/
  len : BitVec 4 := 0
  deriving DecidableEq, Repr

/-- The working latches of the HD engine (R21), and `start`, the bit position of the current code (R140). -/
structure HdLatches where
  /-- `w`: the window. -/
  w : U32 := 0
  /-- `v`: the cache word. -/
  v : U32 := 0
  /-- `L`: the code length. -/
  codeLen : Nat := 0
  /-- `code`: the resolved code. -/
  code : U32 := 0
  /-- `start`: the bit position, in the current frame, at which the code began. -/
  start : Nat := 0
  /-- `dict`: the blob number of the code. -/
  dict : Nat := 0
  /-- `key`: the offset key of the code. -/
  key : Nat := 0
  /-- `off`: the blob address of the entry. -/
  off : U16 := 0
  /-- `symLen`: the entry header. -/
  symLen : U16 := 0
  /-- `len`: the low 15 bits of the entry header. -/
  len : BitVec 15 := 0
  deriving DecidableEq, Repr

/-- The address space a frame's bits come from (R21). -/
inductive Space where
  /-- `IN` -/
  | input
  /-- `DICT[d]` -/
  | dict (d : Nat)
  deriving DecidableEq, Repr

/-- A frame of the HD decode loop (R21). -/
structure Frame where
  /-- `S` -/
  space : Space
  /-- `base`: address in `S` of the first byte of the bit stream. -/
  base : Nat
  /-- `n`: number of bytes of the bit stream. -/
  n : Nat
  /-- `bp`: bit position of the next code. -/
  bp : Nat
  /-- `key0`: the guard key of the entry this frame expands, absent for the outermost frame. -/
  key0 : Option U32
  deriving DecidableEq, Repr

/-- Where a running command stands: in the LZ loop (R80), in a frame before its next code (R122), or before the
expansion of a resolved code (R140). Read only while `status` is BUSY (notes/assumptions/13.md). -/
inductive Engine where
  | lz
  | hdCode
  | hdEntry
  deriving DecidableEq, Repr

/-- The state of the unit, and the parameters, command queue and result through which a model runs it. -/
structure State where
  /-- The parameters of R7; no rule writes them (R211). -/
  params : Params
  /-- The model's own: the commands the host has still to issue, in order (notes/assumptions/2.md). -/
  host : List HostCmd
  /-- The model's own: the result of the last command (R160; notes/assumptions/3.md). -/
  result : Option CmdResult
  /-- `status` (R11). -/
  status : Status
  /-- `fault_code` (R12). -/
  faultCode : FaultName
  /-- `fault_pos` (R12). -/
  faultPos : Nat
  /-- `warn_leftover` (R13). -/
  warnLeftover : Bool
  /-- `OUT` (R14). -/
  out : Memory
  /-- `IN`: the payload of the running decompress command, empty when none runs (R23). -/
  input : Memory
  /-- The model's own: the loop the running command is in. -/
  engine : Engine
  /-- `ip` (R15). -/
  ip : Nat
  /-- The LZ latches (R15). -/
  lz : LzLatches
  /-- `huff_valid` (R16). -/
  huffValid : Bool
  /-- `cacheTable` (R16, R17). -/
  cacheTable : Vector U32 256
  /-- `baseTable` (R16, R18). -/
  baseTable : Vector U32 64
  /-- `DICT[0]` .. `DICT[dictsCount-1]` (R19). -/
  dicts : List Memory
  /-- `codeLength` (R20). -/
  codeLength : U32
  /-- `cl_valid` (R20). -/
  clValid : Bool
  /-- The frame stack (R22), the innermost frame first. -/
  frames : List Frame
  /-- The recursion guard (R22), the key of the innermost frame first. -/
  guard : List U32
  /-- The HD latches (R21). -/
  hd : HdLatches
  deriving DecidableEq, Repr

/-- `out_len` (R14). -/
def State.outLen (s : State) : Nat := s.out.length

/-- `dictsCount` (R19). -/
def State.dictsCount (s : State) : Nat := s.dicts.length

/-- The state after power-on or RESET (R24, R210). The parameters have their defaults (R7), no command is pending,
and every item that R24 leaves unspecified is zero (notes/assumptions/6.md). -/
def State.reset : State where
  params := {}
  host := []
  result := none
  status := .idle
  faultCode := .none
  faultPos := 0
  warnLeftover := false
  out := []
  input := []
  engine := .lz
  ip := 0
  lz := {}
  huffValid := false
  cacheTable := Vector.replicate 256 0
  baseTable := Vector.replicate 64 0
  dicts := []
  codeLength := 0
  clValid := false
  frames := []
  guard := []
  hd := {}

/-! ### Stops of the step function -/

/-- Stops that stand for an access the spec says does not exist. The unit's own faults are NOT here: they are state
(R190), taken in a next state. -/
inductive Fault where
  /-- An access outside an address space (R45: such an access is not made). Raised by a meaning whose read the state
  does not allow; no step from a state that meets `State.Inv` raises it. Safe: the machine stops where the spec says
  nothing happens. -/
  | memOutOfRange
  deriving DecidableEq, Repr

/-- Stops for which no rule gives a meaning. -/
inductive Refusal where
  /-- Raised by exec's arm of an instruction that has no meaning yet; none is left. Safe. -/
  | notModelled (mnemonic : String)
  /-- Raised by HCODE.T and HCODE.B when no frame is live: a code is a code of a bit stream (R122) and there is none.
  No step raises it, since it fetches a code only from a frame. Safe. -/
  | noFrame
  /-- Raised by the LZ fetch if bytes did not decode; every control byte is assigned (R62) and the fetch window is as
  long as the longest instruction, so no step raises it. Safe. -/
  | undecodable (e : DecodeError)
  deriving DecidableEq, Repr

end Sys2Proof.Machine
end

