-- ==== Sys2Proof/Machine/Ops.lean ====
section
/-! DEFINITION. The named operations over memory and registers: MemRead, OutAppend, Peek32 (00_scope.md R8), fault
entry (60_exceptions.md R190), command entry and exit (44_host_commands.md R161, R162), frames and guard (R22). -/

namespace Sys2Proof.Machine

open Sys2Proof

/-- The outcome of one step of this machine. -/
abbrev Out := Host.Outcome State Fault Refusal

/-! ### Memory -/

/-- The unsigned big-endian number of a byte sequence (R41). -/
def beNat (bs : Bytes) : Nat := bs.foldl (fun acc b => acc * 256 + b.toNat) 0

/-- The `n` bytes at addresses `a` .. `a+n-1`, defined only when they all exist (R45). -/
def readBytes (m : Memory) (a n : Nat) : Option Bytes :=
  if a + n ≤ m.length then some ((m.drop a).take n) else none

/-- `MemRead(m, a, n)` (R8): the big-endian number of those bytes. -/
def memRead (m : Memory) (a n : Nat) : Option Nat := (readBytes m a n).map beNat

/-- A one-byte read. -/
def memRead8 (m : Memory) (a : Nat) : Option Byte := (memRead m a 1).map (BitVec.ofNat 8)

/-- A u16 read (R41). -/
def memRead16 (m : Memory) (a : Nat) : Option U16 := (memRead m a 2).map (BitVec.ofNat 16)

/-- A u32 read (R41). -/
def memRead32 (m : Memory) (a : Nat) : Option U32 := (memRead m a 4).map (BitVec.ofNat 32)

/-- Go on with the value of a read; an access that does not exist stops the machine. -/
def withRead {α : Type} (r : Option α) (k : α → Out) : Out :=
  match r with
  | some x => k x
  | none => .fault .memOutOfRange

/-- `count` u32 words from address `a` on, word `i` at `a + 4i`: the image of a table (R46, R103). -/
def readTable (m : Memory) (a : Nat) : (count : Nat) → Option (Vector U32 count)
  | 0 => some #v[]
  | k + 1 =>
    match readTable m a k, memRead32 m (a + 4 * k) with
    | some t, some x => some (t.push x)
    | _, _ => none

/-- The bytes of a frame's address space (R21). -/
def State.space (s : State) : Space → Option Memory
  | .input => some s.input
  | .dict d => s.dicts[d]?

/-- Bit position `p` of the `n`-byte stream at `base` of `m` (R42), zero at and past its end (R121), where no memory is
read. -/
def streamBit (m : Memory) (base n p : Nat) : Option Bool :=
  if p < 8 * n then (memRead8 m (base + p / 8)).map (fun b => b.getLsbD (7 - p % 8)) else some false

/-- The number whose bits, most significant first, are the `count` stream bits from position `p` on. -/
def streamBits (m : Memory) (base n p : Nat) : (count : Nat) → Option Nat
  | 0 => some 0
  | k + 1 =>
    match streamBits m base n p k, streamBit m base n (p + k) with
    | some hi, some b => some (2 * hi + b.toNat)
    | _, _ => none

/-- `Peek32(S, base, n, bp)` (R8, R121). -/
def peek32 (m : Memory) (base n bp : Nat) : Option U32 := (streamBits m base n bp 32).map (BitVec.ofNat 32)

/-! ### The output buffer -/

/-- `OutAppend` (R8) of each byte of a sequence in order. -/
def State.appendOut (s : State) (bs : Bytes) : State := { s with out := s.out ++ bs }

/-- The capacity test of R184: `k` more bytes fit. -/
def State.fits (s : State) (k : Nat) : Bool :=
  match s.params.outMax with
  | none => true
  | some m => decide (s.outLen + k ≤ m)

/-- The output after a copy that appended to it. -/
def State.setOut (s : State) (out : Memory) : State := { s with out := out }

/-- The byte-serial copy of BREF (R84, R50): `k` times, read the byte `dist` before the end of `out` as it is now and
append it. -/
def copyBack (dist : Nat) : (k : Nat) → (out : Memory) → Option Memory
  | 0, out => some out
  | k + 1, out =>
    match memRead8 out (out.length - dist) with
    | some b => copyBack dist k (out ++ [b])
    | none => none

/-! ### Fault entry and command entry and exit -/

/-- Fault entry `raise F(pos)` (R190): the command ends, every frame is dropped, nothing else changes. The payload is
not kept after the command (R23). -/
def State.raise (s : State) (f : FaultName) (pos : Nat) : State :=
  { s with
    faultCode := f
    faultPos := pos
    status := .fault
    frames := []
    guard := []
    input := []
    result := some (.fault f) }

/-- The successful end of a command (R162). The payload is not kept after the command (R23). -/
def State.finish (s : State) (r : CmdResult) : State :=
  { s with status := .idle, input := [], result := some r }

/-- A command refused in FAULT (R161): its result is the first fault's, nothing else changes. -/
def State.refuse (s : State) : State := { s with result := some (.fault s.faultCode) }

/-- `status <- BUSY` (R161). -/
def State.begin (s : State) : State := { s with status := .busy }

/-- Command entry (R161): refused in FAULT, otherwise BUSY and on with the command's own rules. RESET does not pass
here. -/
def enterCommand (s : State) (k : State → Out) : Out :=
  if s.status = .fault then .next s.refuse else k s.begin

/-! ### Frames and the recursion guard -/

/-- The bits of a frame's stream not yet consumed (R122). -/
def Frame.rem (f : Frame) : Nat := 8 * f.n - f.bp

/-- The outermost frame over a payload (R120). -/
def outerFrame (payload : Bytes) : Frame :=
  { space := .input, base := 0, n := payload.length, bp := 0, key0 := none }

/-- Return from the innermost frame (R122, R147): the frame is popped and, if it expanded an entry, its key leaves the
guard (R146). The loop of the frame below goes on. -/
def State.returnFrame (s : State) : State :=
  match s.frames with
  | [] => s
  | f :: rest =>
    { s with
      frames := rest
      guard := if f.key0.isSome then s.guard.tail else s.guard
      engine := .hdCode }

/-- `L` bits of the innermost frame consumed (R127); the entry of their code is next. -/
def State.consume (s : State) (f : Frame) (rest : List Frame) (L : Nat) : State :=
  { s with frames := { f with bp := f.bp + L } :: rest, engine := .hdEntry }

/-- The loop of the innermost frame goes on after a literal entry (R122). -/
def State.resume (s : State) : State := { s with engine := .hdCode }

/-- Call of a fragment (R146): the key enters the guard and a frame over the fragment is opened. -/
def State.pushFrame (s : State) (g : U32) (d base n : Nat) : State :=
  { s with
    guard := g :: s.guard
    frames := { space := .dict d, base := base, n := n, bp := 0, key0 := some g } :: s.frames
    engine := .hdCode }

/-- Whether the guard can take one more key (R146, `GUARD_CAP`). -/
def State.guardHasRoom (s : State) : Bool :=
  match s.params.guardCap with
  | none => true
  | some m => decide (s.guard.length < m)

end Sys2Proof.Machine
end

