-- ==== Sys2Proof/Machine/Operands.lean ====
section
/-! DEFINITION. Operand assembly: the latches of a BREF (30_encoding.md R63), the parameters CodeT and CodeB and the
base-table scan (42_hd_decode.md R124 to R126), the code split (R67, R141) and the CDIC size test (R106). -/

namespace Sys2Proof.Machine

open Sys2Proof

/-! ### LZ operands -/

/-- The control byte latched by the fetch (R81). -/
def State.latchControl (s : State) (c : Byte) : State := { s with lz := { s.lz with c := c } }

/-- `v`, `dist` and `len` latched by BREF (R63, R84). -/
def State.latchBref (s : State) (v : U16) : State :=
  { s with lz := { s.lz with
      v := v
      dist := brefDist v
      len := (brefLenField v).setWidth 4 + BitVec.ofNat 4 Config.lenMin } }

/-- `ip` moved past an instruction of `k` bytes. -/
def State.advance (s : State) (k : Nat) : State := { s with ip := s.ip + k }

/-! ### HD codes -/

/-- The top `L` bits of the window, `w >> (32 - L)` (R66). -/
def topBits (w : U32) (L : Nat) : U32 := w >>> (Config.windowBits - L)

/-- The index of the cache table, `w >> 24` (R122). -/
def cacheIndex (w : U32) : Fin 256 := (w.extractLsb' 24 8).toFin

/-- `base[L]` (R18): entry `2L - 2` of the base table. -/
def baseOf (t : Vector U32 64) (L : Nat) : U32 := t.toList.getD (2 * L - 2) 0

/-- `max[L]` (R18): entry `2L - 1` of the base table. -/
def maxOf (t : Vector U32 64) (L : Nat) : U32 := t.toList.getD (2 * L - 1) 0

/-- `CodeT(v, w, L)` (R124, R7): by default `((v >> 8) - (w >> (32 - L))) mod 2^32`. -/
def codeT (p : Params) (v w : U32) (L : Nat) : U32 :=
  match p.codeT with
  | .formula => (v >>> 8) - topBits w L
  | .other k => Config.otherCode k v w L

/-- `CodeB(max[L], w, L)` (R126, R7): by default `(max[L] - (w >> (32 - L))) mod 2^32`. -/
def codeB (p : Params) (m w : U32) (L : Nat) : U32 :=
  match p.codeB with
  | .formula => m - topBits w L
  | .other k => Config.otherCode k m w L

/-- The base-table scan (R125): the least length from `len` up to 32 whose base value is at most the window's top bits
at that length, or nothing. -/
def scanBase (t : Vector U32 64) (w : U32) (len : Nat) : Option Nat :=
  (List.range' len (Config.windowBits + 1 - len)).find? fun L => decide ((baseOf t L).toNat ≤ (topBits w L).toNat)

/-- `w`, `v` and `start` latched by the code fetch (R122, R123). -/
def State.latchWindow (s : State) (w v : U32) (start : Nat) : State :=
  { s with hd := { s.hd with w := w, v := v, start := start } }

/-- `L` and `code` latched when a code is resolved (R124, R126). -/
def State.latchCode (s : State) (L : Nat) (code : U32) (start : Nat) : State :=
  { s with hd := { s.hd with codeLen := L, code := code, start := start } }

/-! ### The dictionary lookup -/

/-- `2^codeLength` capped at `2^32`: dividing a u32 by either gives the same quotient and remainder (R67). -/
def splitModulus (codeLength : U32) : Nat := 2 ^ min codeLength.toNat 32

/-- `dict = floor(code / 2^codeLength)` (R141). -/
def splitDict (codeLength code : U32) : Nat := code.toNat / splitModulus codeLength

/-- `key = code mod 2^codeLength` (R141). -/
def splitKey (codeLength code : U32) : Nat := code.toNat % splitModulus codeLength

/-- `dict` and `key` latched by the lookup (R141). -/
def State.latchSplit (s : State) (d k : Nat) : State := { s with hd := { s.hd with dict := d, key := k } }

/-- `off` latched by the lookup (R143). -/
def State.latchOff (s : State) (off : U16) : State := { s with hd := { s.hd with off := off } }

/-- `symLen` and `len` latched by the lookup (R144). -/
def State.latchSymLen (s : State) (h : U16) : State := { s with hd := { s.hd with symLen := h, len := entryLen h } }

/-- The guard key of the latched code (R146, `GUARD_KEY`). -/
def State.guardKeyOf (s : State) : U32 :=
  match s.params.guardKey with
  | .full => s.hd.code
  | .masked => BitVec.ofNat 32 s.hd.key

/-- The `k` body bytes of the entry at the latched blob and offset (R144). -/
def State.entryBody (s : State) (k : Nat) : Option Bytes :=
  match s.dicts[s.hd.dict]? with
  | some D => readBytes D (s.hd.off.toNat + 2) k
  | none => none

/-! ### The CDIC record -/

/-- The reconciled code length of a record with field `cl` (R107). -/
def State.reconcile (s : State) (cl : U32) : U32 :=
  if s.clValid then (if s.codeLength.toNat ≤ cl.toNat then s.codeLength else cl) else cl

/-- `CdicSizeOk(size, cl)` (R106). The exponent is capped at `size`, which changes neither comparison since
`size < 2^size`. -/
def cdicSizeOk (p : Params) (size : Nat) (cl : U32) : Bool :=
  match p.cdicSizeCheck with
  | .doc => decide (size < 2 ^ min cl.toNat size)
  | .inverse => decide (2 ^ min cl.toNat size < size)
  | .none => true

end Sys2Proof.Machine
end

