-- ==== Sys2Proof/Machine/Flags.lean ====
section
/-! DEFINITION. The unit's only flag, `warn_leftover` (10_state.md R13): there is no carry, zero, sign or overflow
condition. -/

namespace Sys2Proof.Machine

/-- `warn_leftover` cleared at the start of a DECOMP_HUFF (R120). -/
def State.clearWarn (s : State) : State := { s with warnLeftover := false }

/-- `warn_leftover` set by leftover bits that are not all zero (R128). -/
def State.setWarn (s : State) : State := { s with warnLeftover := true }

end Sys2Proof.Machine
end

