-- ==== Sys2Proof/Machine/Commands.lean ====
section
/-! DEFINITION. The five host commands (44_host_commands.md, 41_hd_setup.md). The setup commands and RESET are one step;
a decompress command's step enters its loop, and the steps after it run the loop to its end. -/

namespace Sys2Proof.Machine

open Sys2Proof

/-- RESET (R163, R210), accepted in every state. The parameters are not touched (R211) and the host's further commands
still stand. -/
def execReset (s : State) : Out :=
  .next { State.reset with params := s.params, host := s.host, result := some .ok }

/-- The tables of a HUFF record loaded (R103). -/
def State.loadTables (s : State) (cache : Vector U32 256) (base : Vector U32 64) : State :=
  { s with cacheTable := cache, baseTable := base, huffValid := true }

/-- The tests of R101 and the load of R103, in order. -/
def setHuffBody (record : Bytes) (s : State) : Out :=
  if record.length < Config.huffMinLen then .next (s.raise .huffShort 0)
  else
    withRead (readBytes record 0 4) fun magic =>
    if magic ≠ Config.huffMagic then .next (s.raise .huffBadMagic 0)
    else
      withRead (memRead record 4 4) fun hdrLen =>
      if hdrLen ≠ Config.huffHdrLen then .next (s.raise .huffBadHdrLen 0)
      else
        withRead (memRead record 8 4) fun cacheOffset =>
        if cacheOffset ≠ Config.huffHdrLen then .next (s.raise .huffBadCacheOffset 0)
        else
          withRead (memRead record 12 4) fun baseTableOffset =>
          if baseTableOffset ≠ cacheOffset + Config.cacheBytes then .next (s.raise .huffBadBaseOffset 0)
          else
            withRead (readTable record Config.huffHdrLen 256) fun cache =>
            withRead (readTable record (Config.huffHdrLen + Config.cacheBytes) 64) fun base =>
            .next ((s.loadTables cache base).finish .ok)

/-- SET_HUFF (R101, R103). -/
def execSetHuff (record : Bytes) (s : State) : Out := enterCommand s (setHuffBody record)

/-- A CDIC record committed (R108). -/
def State.addDict (s : State) (blob : Bytes) (newCL : U32) : State :=
  { s with dicts := s.dicts ++ [blob], codeLength := newCL, clValid := true }

/-- The tests of R105 and the commit of R108, in order. -/
def addCdicBody (record : Bytes) (s : State) : Out :=
  if Config.dictMax ≤ s.dictsCount then .next (s.raise .cdicTooMany 0)
  else if record.length < Config.cdicHdrLen then .next (s.raise .cdicShort 0)
  else
    withRead (readBytes record 0 4) fun magic =>
    if magic ≠ Config.cdicMagic then .next (s.raise .cdicBadMagic 0)
    else
      withRead (memRead record 4 4) fun hdrLen =>
      if hdrLen ≠ Config.cdicHdrLen then .next (s.raise .cdicBadHdrLen 0)
      else
        withRead (memRead32 record Config.cdicCodeLenOff) fun cl =>
        if cdicSizeOk s.params (record.length - Config.cdicHdrLen) (s.reconcile cl) then
          .next ((s.addDict (record.drop Config.cdicHdrLen) (s.reconcile cl)).finish .ok)
        else .next (s.raise .cdicBadSize 0)

/-- ADD_CDIC (R105 to R109). -/
def execAddCdic (record : Bytes) (s : State) : Out := enterCommand s (addCdicBody record)

/-- The host's command taken from the queue. -/
def State.takeCommand (s : State) (cs : List HostCmd) : State := { s with host := cs }

/-- The LZ loop entered (R80). -/
def State.startLz (s : State) (payload : Bytes) : State := { s with input := payload, engine := .lz, ip := 0 }

/-- DECOMP_PALM (R80): the steps after this one run the loop. -/
def execDecompPalm (payload : Bytes) (s : State) : Out := enterCommand s fun t => .next (t.startLz payload)

/-- The outermost frame entered, with an empty guard (R120). -/
def State.startHd (s : State) (payload : Bytes) : State :=
  { s with input := payload, engine := .hdCode, frames := [outerFrame payload], guard := [] }

/-- The entry of R120 after command entry. -/
def decompHuffBody (payload : Bytes) (s : State) : Out :=
  if s.huffValid then .next (s.clearWarn.startHd payload) else .next (s.clearWarn.raise .hdNotConfigured 0)

/-- DECOMP_HUFF (R120): the steps after this one run the frames. -/
def execDecompHuff (payload : Bytes) (s : State) : Out := enterCommand s (decompHuffBody payload)

end Sys2Proof.Machine
end

