-- ==== Sys2Proof/Machine/HdCode.lean ====
section
/-! DEFINITION. The two forms of HD code (42_hd_decode.md): HCODE.T and HCODE.B, and what follows a resolved code. The
fetch has latched the window, the cache word and the code's position. -/

namespace Sys2Proof.Machine

open Sys2Proof

/-- End of stream with a code that does not fit (R128): the code is not expanded, and the frame ends. -/
def straddle (f : Frame) (s : State) : Out :=
  if s.hd.w = 0 then .next s.returnFrame
  else
    match s.params.straddlePolicy with
    | .fault => .next (s.raise .hdStraddle f.bp)
    | .warn => .next s.setWarn.returnFrame

/-- A resolved code of frame `f` (R127, R128): it is consumed before its entry is expanded, or the stream ends. -/
def consumeCode (f : Frame) (rest : List Frame) (L : Nat) (code : U32) (s : State) : Out :=
  if f.rem < L then straddle f (s.latchCode L code f.bp)
  else .next ((s.latchCode L code f.bp).consume f rest L)

/-- What both forms begin with: the live frame, and the zero-length test of R123. -/
def withCode (len : BitVec 5) (s : State) (k : Frame → List Frame → Out) : Out :=
  match s.frames with
  | [] => .refused .noFrame
  | f :: rest => if len = 0 then .next (s.raise .hdZeroCodeLen f.bp) else k f rest

/-- HCODE.T (R124). -/
def execHcodeT (maxcode : BitVec 24) (ignored : BitVec 2) (len : BitVec 5) (s : State) : Out :=
  withCode len s fun f rest =>
    consumeCode f rest len.toNat (codeT s.params (cacheWordOf true maxcode ignored len) s.hd.w len.toNat) s

/-- HCODE.B (R125, R126): the ignored bits of the cache word take no part. -/
def execHcodeB (_unused : BitVec 24) (_ignored : BitVec 2) (len : BitVec 5) (s : State) : Out :=
  withCode len s fun f rest =>
    match scanBase s.baseTable s.hd.w len.toNat with
    | none => .next (s.raise .hdBaseScanOverflow f.bp)
    | some L => consumeCode f rest L (codeB s.params (maxOf s.baseTable L) s.hd.w L) s

end Sys2Proof.Machine
end

