-- ==== Sys2Proof/Machine/HdEntry.lean ====
section
/-! DEFINITION. The two kinds of dictionary entry (43_hd_dictionary.md): ENT.LIT and ENT.REC. The lookup has latched the
blob number, the key, the offset and the header of the entry, and has made the tests of R142 to R144. -/

namespace Sys2Proof.Machine

open Sys2Proof

/-- ENT.LIT (R145): the loop of the current frame goes on after it. -/
def execEntLit (len : BitVec 15) (s : State) : Out :=
  if Config.litMax < len.toNat then .next (s.raise .hdSymLenTooBig s.hd.start)
  else if s.fits len.toNat then
    withRead (s.entryBody len.toNat) fun body => .next (s.appendOut body).resume
  else .next (s.raise .outOverflow s.hd.start)

/-- ENT.REC (R146): the recursion test, then the capacity test, then the call. -/
def execEntRec (len : BitVec 15) (s : State) : Out :=
  if s.guardKeyOf ∈ s.guard then .next (s.raise .hdInfiniteRecursion s.hd.start)
  else if s.guardHasRoom then
    .next (s.pushFrame s.guardKeyOf s.hd.dict (s.hd.off.toNat + 2) len.toNat)
  else .next (s.raise .guardOverflow s.hd.start)

end Sys2Proof.Machine
end

