-- ==== Sys2Proof/Machine/Lz.lean ====
section
/-! DEFINITION. The four LZ stream instructions (40_lz_stream.md). The fetch has latched the control byte; `s.ip` is the
position of the instruction and `s.input.length` is `n`. -/

namespace Sys2Proof.Machine

open Sys2Proof

/-- What LIT, RUN and SPC share: the capacity test of R184, then the appends, then `ip` past the instruction. -/
def emitLz (bs : Bytes) (size : Nat) (s : State) : Out :=
  if s.fits bs.length then .next ((s.appendOut bs).advance size) else .next (s.raise .outOverflow s.ip)

/-- LIT (R83). -/
def execLit (c : Byte) (s : State) : Out := emitLz [c] 1 s

/-- RUN (R82). -/
def execRun (data : Bytes) (s : State) : Out :=
  if s.ip + 1 + data.length > s.input.length then .next (s.raise .lzTruncated s.ip)
  else emitLz data (1 + data.length) s

/-- The copy of BREF (R84) with its latched operands, after the test that its second byte exists. -/
def copyBref (s : State) : Out :=
  if s.lz.dist.toNat = 0 ∨ s.outLen < s.lz.dist.toNat then .next (s.raise .lzBadDistance s.ip)
  else if s.fits s.lz.len.toNat then
    withRead (copyBack s.lz.dist.toNat s.lz.len.toNat s.out) fun out => .next ((s.setOut out).advance 2)
  else .next (s.raise .outOverflow s.ip)

/-- BREF (R84). -/
def execBref (dist : BitVec 11) (lenField : BitVec 3) (s : State) : Out :=
  if s.ip + 2 > s.input.length then .next (s.raise .lzTruncated s.ip)
  else copyBref (s.latchBref (brefWordOf dist lenField))

/-- The character of an SPC (R64): `c XOR 0x80` for the control byte `c` with these low six bits. -/
def spcChar (low : BitVec 6) : Byte := (0b11#2 ++ low) ^^^ 0x80

/-- SPC (R85). -/
def execSpc (low : BitVec 6) (s : State) : Out := emitLz [0x20, spcChar low] 1 s

end Sys2Proof.Machine
end

