-- ==== Sys2Proof/Machine/Dispatch.lean ====
section
/-! DEFINITION. The meaning of each instruction, one arm per constructor. -/

namespace Sys2Proof.Machine

open Sys2Proof

def exec (i : Instr) (s : State) : Host.Outcome State Fault Refusal :=
  match i with
  | .lit c => Sys2Proof.Machine.execLit c s
  | .run data => Sys2Proof.Machine.execRun data s
  | .bref dist lenField => Sys2Proof.Machine.execBref dist lenField s
  | .spc low => Sys2Proof.Machine.execSpc low s
  | .hcodeT maxcode ignored len => Sys2Proof.Machine.execHcodeT maxcode ignored len s
  | .hcodeB unused ignored len => Sys2Proof.Machine.execHcodeB unused ignored len s
  | .entLit len => Sys2Proof.Machine.execEntLit len s
  | .entRec len => Sys2Proof.Machine.execEntRec len s
  | .reset => Sys2Proof.Machine.execReset s
  | .setHuff record => Sys2Proof.Machine.execSetHuff record s
  | .addCdic record => Sys2Proof.Machine.execAddCdic record s
  | .decompPalm payload => Sys2Proof.Machine.execDecompPalm payload s
  | .decompHuff payload => Sys2Proof.Machine.execDecompHuff payload s

end Sys2Proof.Machine
end

