-- ==== Sys2Proof/Machine/Fetch.lean ====
section
/-! DEFINITION. What the unit does next: which instruction it fetches and with which latches, or which move it makes
without one (a loop ends, a frame returns, a lookup faults, the unit waits for the host). -/

namespace Sys2Proof.Machine

open Sys2Proof

/-- The outcome of a fetch: an instruction to run in a state, or an outcome without one. -/
inductive Fetched where
  | run (i : Instr) (s : State)
  | stop (o : Out)

/-- Go on with the value of a read; an access that does not exist stops the machine. -/
def fetchRead {α : Type} (r : Option α) (k : α → Fetched) : Fetched :=
  match r with
  | some x => k x
  | none => .stop (.fault .memOutOfRange)

/-! ### The LZ engine -/

/-- The bytes the LZ fetch decodes: the payload from `ip` on, padded with zeros so that the longest instruction always
fits. RUN and BREF test that their own bytes exist before they use one (R82, R84; notes/assumptions/9.md). -/
def State.lzWindow (s : State) : Bytes := s.input.drop s.ip ++ List.replicate (maxLzBytes - 1) 0

/-- One turn of the LZ loop (R80, R81). -/
def fetchLz (s : State) : Fetched :=
  if s.ip < s.input.length then
    fetchRead (memRead8 s.input s.ip) fun c =>
    match decodeLz s.lzWindow with
    | .ok i _ => .run i (s.latchControl c)
    | .error e => .stop (.refused (.undecodable e))
  else .stop (.next (s.finish .ok))

/-! ### The HD engine -/

/-- One turn of the loop of frame `f` up to the code's form (R122, R123, R129). -/
def fetchCode (f : Frame) (s : State) : Fetched :=
  if f.rem = 0 then .stop (.next s.returnFrame)
  else
    fetchRead (s.space f.space) fun m =>
    fetchRead (peek32 m f.base f.n f.bp) fun w =>
    if f.rem < 8 ∧ w = 0 then .stop (.next s.returnFrame)
    else .run (decodeCacheWord s.cacheTable[cacheIndex w]) (s.latchWindow w s.cacheTable[cacheIndex w] f.bp)

/-- The HD loop (R120, R122): the innermost frame's turn, or the end of the command when the outermost frame has
returned. -/
def fetchHdCode (s : State) : Fetched :=
  match s.frames with
  | [] => .stop (.next (s.finish (.okWarn s.warnLeftover)))
  | f :: _ => fetchCode f s

/-- A fault of the lookup, at the position of the code (R140, R148). -/
def lookupFault (f : FaultName) (s : State) : Fetched := .stop (.next (s.raise f s.hd.start))

/-- Entry header and body bounds (R144) of the entry at the latched offset of blob `D`. -/
def fetchHeader (D : Memory) (s : State) : Fetched :=
  if D.length < s.hd.off.toNat + 2 then lookupFault .hdBadOffset s
  else
    fetchRead (memRead16 D s.hd.off.toNat) fun h =>
    if D.length < s.hd.off.toNat + 2 + (entryLen h).toNat then lookupFault .hdBadSymLen (s.latchSymLen h)
    else .run (decodeEntryHeader h) (s.latchSymLen h)

/-- Offset-table lookup (R143) of the latched key in blob `D`. -/
def fetchOffset (D : Memory) (s : State) : Fetched :=
  if D.length < 2 * s.hd.key + 2 then lookupFault .hdBadOffset s
  else fetchRead (memRead16 D (2 * s.hd.key)) fun off => fetchHeader D (s.latchOff off)

/-- The split of the latched code (R141); it has no operand while `cl_valid` is 0 and is then skipped. -/
def State.splitCode (s : State) : State :=
  if s.clValid then s.latchSplit (splitDict s.codeLength s.hd.code) (splitKey s.codeLength s.hd.code) else s

/-- The lookup of the latched code (R140): steps 1 to 5 of DecodeOne. While `cl_valid` is 0 no blob is held and step 2
faults (R141). -/
def fetchHdEntry (s : State) : Fetched :=
  if s.clValid = false ∨ s.dictsCount ≤ s.splitCode.hd.dict then lookupFault .hdBadDict s.splitCode
  else fetchRead (s.dicts[s.splitCode.hd.dict]?) fun D => fetchOffset D s.splitCode

/-! ### The unit -/

/-- The host's next command (R160, R219), or the unit waits. -/
def fetchCommand (s : State) : Fetched :=
  match s.host with
  | [] => .stop (.next s)
  | c :: cs => .run c.instr (s.takeCommand cs)

/-- What the unit does next. The host is heard only while no command runs (R10). -/
def fetch (s : State) : Fetched :=
  match s.status with
  | .busy =>
    match s.engine with
    | .lz => fetchLz s
    | .hdCode => fetchHdCode s
    | .hdEntry => fetchHdEntry s
  | .idle => fetchCommand s
  | .fault => fetchCommand s

/-! ### Placing an instruction -/

/-- The state in which a DECOMP_PALM of these bytes has just entered its loop (R80). -/
def State.withLzBytes (s : State) (bs : Bytes) : State := s.begin.startLz bs

/-- The state in which a DECOMP_HUFF of four zero bytes has just entered its outermost frame (R120) and the cache word
of their window is `v`. -/
def State.withCacheWord (s : State) (v : U32) : State :=
  { s with status := .busy, huffValid := true, cacheTable := s.cacheTable.set 0 v }.startHd [0, 0, 0, 0]

/-- The state in which code 0 has just been resolved and key 0 of the only blob is an entry with header `h` and a body
of zeros. -/
def State.withEntryHeader (s : State) (h : U16) : State :=
  { s with
    status := .busy
    engine := .hdEntry
    dicts := [[0, 2, hiByte h, loByte h] ++ List.replicate (entryLen h).toNat 0]
    codeLength := 0
    clValid := true
    hd := { s.hd with code := 0 } }

/-- The bytes of `layoutWord` stored where the next step fetches them. -/
def State.placeWord (s : State) (nbits w : Nat) : State :=
  match layoutWord nbits w with
  | some (.lz, bs) => s.withLzBytes bs
  | some (.cacheWord, _) => s.withCacheWord (BitVec.ofNat 32 w)
  | some (.entryHeader, _) => s.withEntryHeader (BitVec.ofNat 16 w)
  | none => s

end Sys2Proof.Machine
end

