-- ==== Sys2Proof/Machine/Step.lean ====
section
/-! DEFINITION. One step of the unit: fetch, then the fetched instruction's meaning. -/

namespace Sys2Proof.Machine

open Sys2Proof

/-- One step: one stream instruction, one host command, or one move of a loop that needs no instruction. -/
def step (s : State) : Host.Outcome State Fault Refusal :=
  match fetch s with
  | .run i t => exec i t
  | .stop o => o

/-- The state with an instruction of the opcode table stored where the next step fetches it
(notes/assumptions/12.md). -/
def State.withFetchWord (s : State) (nbits w : Nat) : State := s.placeWord nbits w

end Sys2Proof.Machine
end

