-- ==== Sys2Proof/Safety.lean ====
section
/-! DEFINITION. What a safe state of the unit is: the relations between its registers that the rules promise, and the
terms in which statements speak of runs. -/

namespace Sys2Proof.Machine

open Sys2Proof

/-- The bit stream of a frame lies inside its address space and its position inside the stream (R21, R144). -/
def State.FrameInside (s : State) (f : Frame) : Prop :=
  ∃ m, s.space f.space = some m ∧ f.base + f.n ≤ m.length ∧ f.bp ≤ 8 * f.n

/-- A DECOMP_HUFF is running. -/
def State.hdRunning (s : State) : Prop := s.status = .busy ∧ s.engine ≠ .lz

/-- The relations between the registers that the rules of 10_state.md promise of every state a run reaches. -/
structure State.Inv (s : State) : Prop where
  /-- FAULT and a fault code come together (R11, R12). -/
  faultCode_iff : s.status = .fault ↔ s.faultCode ≠ .none
  /-- No position without a fault (R24). -/
  faultPos_zero : s.faultCode = .none → s.faultPos = 0
  /-- The payload is not kept after its command (R23). -/
  input_empty : s.status ≠ .busy → s.input = []
  /-- The frame stack is empty when no DECOMP_HUFF runs (R22). -/
  frames_empty : ¬ s.hdRunning → s.frames = []
  /-- The guard is the list of the keys of every frame but the outermost, in stack order (R22). -/
  guard_stack : s.frames ≠ [] → s.frames.map Frame.key0 = s.guard.map some ++ [none]
  /-- Without a frame the guard is empty (R22). -/
  guard_empty : s.frames = [] → s.guard = []
  /-- A key stands in the guard once (R146). -/
  guard_nodup : s.guard.Nodup
  /-- `GUARD_CAP` holds (R7). -/
  guard_cap : ∀ m, s.params.guardCap = some m → s.guard.length ≤ m
  /-- Every frame lies inside its space (R45). -/
  frames_inside : ∀ f ∈ s.frames, s.FrameInside f
  /-- The outermost frame, and only it, reads `IN` (R21). -/
  frames_space : ∀ f ∈ s.frames, f.space = .input ↔ f.key0 = none
  /-- An entry is expanded inside a frame (R140). -/
  entry_frame : s.status = .busy → s.engine = .hdEntry → s.frames ≠ []
  /-- The HD engine runs with its tables loaded (R16). -/
  configured : s.hdRunning → s.huffValid = true
  /-- `0 <= ip <= n` (R15). -/
  ip_inside : s.status = .busy → s.engine = .lz → s.ip ≤ s.input.length
  /-- At most 32 blobs (R19). -/
  dicts_max : s.dictsCount ≤ Config.dictMax
  /-- `cl_valid` tells whether a record was accepted (R20). -/
  clValid_iff : s.clValid = true ↔ s.dicts ≠ []
  /-- `OUT_MAX` holds (R7). -/
  out_max : ∀ m, s.params.outMax = some m → s.outLen ≤ m

/-- The rest of a run: from `s`, `k` steps lead to `t`. -/
def Reaches (s : State) (k : Nat) (t : State) : Prop := Sys2Proof.core.run k s = .next t

/-- `OUT_MAX` allows `k` more bytes (R184). -/
def State.capacityFor (s : State) (k : Nat) : Prop := ∀ m, s.params.outMax = some m → s.out.length + k ≤ m

/-- The stream instructions (R60): all but the host commands. -/
def streamInstr : Instr → Bool
  | .lit _ => true
  | .run _ => true
  | .bref _ _ => true
  | .spc _ => true
  | .hcodeT _ _ _ => true
  | .hcodeB _ _ _ => true
  | .entLit _ => true
  | .entRec _ => true
  | .reset => false
  | .setHuff _ => false
  | .addCdic _ => false
  | .decompPalm _ => false
  | .decompHuff _ => false

/-! ### A reference for the LZ engine

R80 to R85 once more, as one function on byte sequences that knows no instruction, no latch and no step. -/

/-- How a DECOMP_PALM ends: with the output, or with a fault, its position and the output so far. -/
inductive LzEnd where
  | ok (out : Bytes)
  | fault (f : FaultName) (pos : Nat) (out : Bytes)
  deriving DecidableEq, Repr

/-- Whether `k` more bytes pass the capacity (R184). -/
def overflows (cap : Option Nat) (out : Bytes) (k : Nat) : Bool :=
  match cap with
  | none => false
  | some m => decide (m < out.length + k)

/-- The bytes a back-reference appends, in the closed form of R84: the `k`-th is `out[s + (k mod dist)]` with
`s = |out| - dist`. -/
def periodicCopy (out : Bytes) (dist len : Nat) : Bytes :=
  (List.range len).map fun k => out.getD (out.length - dist + k % dist) 0

/-- The LZ engine on the bytes from position `ip` on; `fuel` bounds the number of instructions. -/
def lzReference (cap : Option Nat) : (fuel : Nat) → (ip : Nat) → (bytes out : Bytes) → LzEnd
  | 0, _, _, out => .ok out
  | _ + 1, _, [], out => .ok out
  | k + 1, ip, c :: rest, out =>
    if 1 ≤ c.toNat ∧ c.toNat ≤ 8 then
      if rest.length < c.toNat then .fault .lzTruncated ip out
      else if overflows cap out c.toNat then .fault .outOverflow ip out
      else lzReference cap k (ip + 1 + c.toNat) (rest.drop c.toNat) (out ++ rest.take c.toNat)
    else if c.toNat < 128 then
      if overflows cap out 1 then .fault .outOverflow ip out
      else lzReference cap k (ip + 1) rest (out ++ [c])
    else if c.toNat < 192 then
      match rest with
      | [] => .fault .lzTruncated ip out
      | b :: rest' =>
        let v := c.toNat * 256 + b.toNat
        let dist := v / 8 % 2048
        let len := v % 8 + 3
        if dist = 0 ∨ out.length < dist then .fault .lzBadDistance ip out
        else if overflows cap out len then .fault .outOverflow ip out
        else lzReference cap k (ip + 2) rest' (out ++ periodicCopy out dist len)
    else
      if overflows cap out 2 then .fault .outOverflow ip out
      else lzReference cap k (ip + 1) rest (out ++ [0x20, c ^^^ 0x80])

end Sys2Proof.Machine
end

