-- ==== Sys2Proof/Certificates/Slice0/Obligations.lean ====
section
/-! DEFINITION. The statements for the provers. Each formalises a numbered rule of spec/, or what follows from several;
its docstring names them. `s.raise f pos` is the fault entry of R190, which `Obligations.FaultEntry` spells out. -/

open Sys2Proof Sys2Proof.Machine

/-! ### Encodings -/

/-- Words written out bit by bit from the formats of R61, R66 and R68 decode to the instructions they stand for. -/
def Obligations.WrittenWordsDecode : Prop :=
  decode .lz [0b01111010] = .ok (.lit 0x7A) [] ∧
  decode .lz [0b00000011, 0x61, 0x62, 0x63, 0x80] = .ok (.run [0x61, 0x62, 0x63]) [0x80] ∧
  decode .lz [0b10000000, 0b00011011] = .ok (.bref 3 3) [] ∧
  decode .lz [0b10111111, 0b11111111] = .ok (.bref 2047 7) [] ∧
  decode .lz [0b11100100] = .ok (.spc 0b100100) [] ∧
  decode .cacheWord [0, 0, 0b00000011, 0b10000010] = .ok (.hcodeT 3 0 2) [] ∧
  decode .cacheWord [0, 0, 0, 0b00000100] = .ok (.hcodeB 0 0 4) [] ∧
  decode .entryHeader [0b10000000, 0b00000010] = .ok (.entLit 2) [] ∧
  decode .entryHeader [0b00000000, 0b00000001] = .ok (.entRec 1) []

/-- Decoding the encoding of a well-formed instruction gives it back, whatever follows it (R61, R66, R68). -/
def Obligations.DecodeOfEncode : Prop :=
  ∀ (i : Instr) (e : Encoding) (bs rest : Bytes), i.wellFormed = true → encode i = some (e, bs) →
    decode e (bs ++ rest) = .ok i rest

/-- Encoding what was decoded gives the bytes back, and only well-formed instructions are decoded: no two words of an
encoding stand for one instruction (R61, R66, R68). Every stream instruction, and no host command, has an encoding
(R71). -/
def Obligations.EncodeOfDecode : Prop :=
  (∀ (e : Encoding) (bs rest : Bytes) (i : Instr), decode e bs = .ok i rest →
    i.wellFormed = true ∧ ∃ pre, encode i = some (e, pre) ∧ bs = pre ++ rest) ∧
  (∀ i : Instr, (encode i).isSome = streamInstr i)

/-- R62: every control byte is assigned to exactly one mnemonic, with its length. -/
def Obligations.ControlByteClasses : Prop :=
  ∀ (c : Byte) (rest : Bytes), 8 ≤ rest.length →
    ((c.toNat = 0 ∨ 9 ≤ c.toNat ∧ c.toNat ≤ 127) → decodeLz (c :: rest) = .ok (.lit c) rest) ∧
    ((1 ≤ c.toNat ∧ c.toNat ≤ 8) → decodeLz (c :: rest) = .ok (.run (rest.take c.toNat)) (rest.drop c.toNat)) ∧
    ((128 ≤ c.toNat ∧ c.toNat ≤ 191) → ∃ d l, decodeLz (c :: rest) = .ok (.bref d l) (rest.drop 1)) ∧
    (192 ≤ c.toNat → ∃ x, decodeLz (c :: rest) = .ok (.spc x) rest)

/-- R63: the operands of a BREF, from `v = (c << 8) | IN[ip+1]`; distance 0 is encodable and faults. -/
def Obligations.BrefOperands : Prop :=
  ∀ (c b : Byte) (rest : Bytes), 128 ≤ c.toNat → c.toNat ≤ 191 →
    ∃ d l, decodeLz (c :: b :: rest) = .ok (.bref d l) rest ∧
      d.toNat = (c.toNat * 256 + b.toNat) / 8 % 2048 ∧
      l.toNat + 3 = (c.toNat * 256 + b.toNat) % 8 + 3 ∧
      (d = 0 ↔ c = 0x80 ∧ b.toNat ≤ 7) ∧
      (d = 0 → ∀ s : State, s.ip + 2 ≤ s.input.length → ∃ t, exec (.bref d l) s = .next t ∧
        t.status = .fault ∧ t.faultCode = .lzBadDistance ∧ t.faultPos = s.ip ∧ t.out = s.out)

/-- R64: the operands of SPC, RUN and LIT. -/
def Obligations.SpcRunLitOperands : Prop :=
  (∀ (c : Byte) (rest : Bytes), 192 ≤ c.toNat → ∃ low, decodeLz (c :: rest) = .ok (.spc low) rest ∧
    spcChar low = c ^^^ 0x80 ∧ (spcChar low).toNat = 0x40 + c.toNat % 64 ∧
    0x40 ≤ (spcChar low).toNat ∧ (spcChar low).toNat ≤ 0x7F) ∧
  (∀ (c : Byte) (data rest : Bytes), 1 ≤ c.toNat → c.toNat ≤ 8 → data.length = c.toNat →
    decodeLz (c :: (data ++ rest)) = .ok (.run data) rest) ∧
  (∀ (c : Byte) (rest : Bytes), (c.toNat = 0 ∨ 9 ≤ c.toNat) → c.toNat ≤ 127 → decodeLz (c :: rest) = .ok (.lit c) rest)

/-- The fields of a cache word (R17) and of an entry header (R68), as numbers, select the instruction and its operands.
-/
def Obligations.TableWordFields : Prop :=
  (∀ v : U32, ∃ (m : BitVec 24) (g : BitVec 2) (l : BitVec 5),
    m.toNat = v.toNat / 256 ∧ g.toNat = v.toNat / 32 % 4 ∧ l.toNat = v.toNat % 32 ∧
    decodeCacheWord v = (if v.toNat / 128 % 2 = 1 then .hcodeT m g l else .hcodeB m g l)) ∧
  (∀ h : U16, ∃ l : BitVec 15, l.toNat = h.toNat % 32768 ∧
    decodeEntryHeader h = (if 32768 ≤ h.toNat then .entLit l else .entRec l))

/-! ### Memory and the window -/

/-- `MemRead` is big-endian at every address, aligned or not, and defined exactly inside its space (00_scope.md, R41,
R43). -/
def Obligations.MemReadBigEndian : Prop :=
  ∀ (m : Memory) (a : Nat),
    (∀ n, memRead m a n = none ↔ m.length < a + n) ∧
    (∀ h : a + 1 ≤ m.length, memRead m a 1 = some m[a].toNat) ∧
    (∀ h : a + 2 ≤ m.length, memRead m a 2 = some (m[a].toNat * 256 + m[a + 1].toNat)) ∧
    (∀ h : a + 4 ≤ m.length, memRead m a 4 =
      some (m[a].toNat * 2 ^ 24 + m[a + 1].toNat * 2 ^ 16 + m[a + 2].toNat * 2 ^ 8 + m[a + 3].toNat))

/-- Bit `31 - i` of the window is the stream's bit `bp + i`, most significant bit of a byte first, and 0 past the end of
the stream; bytes outside the stream do not show in it (R42, R121). -/
def Obligations.WindowBits : Prop :=
  ∀ (m : Memory) (base n bp : Nat), base + n ≤ m.length →
    ∃ w, peek32 m base n bp = some w ∧
      (∀ i, i < 32 → w.getLsbD (31 - i) =
        if bp + i < 8 * n then (m.getD (base + (bp + i) / 8) 0).getLsbD (7 - (bp + i) % 8) else false) ∧
      ∀ m' : Memory, (m'.drop base).take n = (m.drop base).take n → peek32 m' base n bp = some w

/-! ### LZ instructions -/

/-- R83: LIT appends its control byte, or overflows (R184); nothing else changes. -/
def Obligations.LitResult : Prop :=
  ∀ (c : Byte) (s : State),
    (s.capacityFor 1 → exec (.lit c) s = .next { s with out := s.out ++ [c], ip := s.ip + 1 }) ∧
    (¬ s.capacityFor 1 → exec (.lit c) s = .next (s.raise .outOverflow s.ip))

/-- R82: RUN appends its bytes as they stand; a truncated run, and then one that does not fit, append nothing. Only RUN
and BREF can emit every byte. -/
def Obligations.RunResult : Prop :=
  (∀ (data : Bytes) (s : State),
    (s.input.length < s.ip + 1 + data.length → exec (.run data) s = .next (s.raise .lzTruncated s.ip)) ∧
    (s.ip + 1 + data.length ≤ s.input.length → ¬ s.capacityFor data.length →
      exec (.run data) s = .next (s.raise .outOverflow s.ip)) ∧
    (s.ip + 1 + data.length ≤ s.input.length → s.capacityFor data.length →
      exec (.run data) s = .next { s with out := s.out ++ data, ip := s.ip + (1 + data.length) })) ∧
  (∀ c : Byte, (Instr.lit c).wellFormed = true → c.toNat = 0 ∨ 9 ≤ c.toNat ∧ c.toNat ≤ 0x7F) ∧
  (∀ low : BitVec 6, 0x40 ≤ (spcChar low).toNat ∧ (spcChar low).toNat ≤ 0x7F)

/-- R84: BREF tests its second byte, its distance and the capacity, in this order, and copies byte-serially: the `k`-th
appended byte is `OUT[|OUT| - dist + k mod dist]`. Only OUT, `ip` and its latches change. -/
def Obligations.BrefResult : Prop :=
  ∀ (dist : BitVec 11) (l : BitVec 3) (s : State),
    (s.input.length < s.ip + 2 → exec (.bref dist l) s = .next (s.raise .lzTruncated s.ip)) ∧
    (s.ip + 2 ≤ s.input.length → ∃ lz : LzLatches,
      lz.c = s.lz.c ∧ lz.v.toNat = 32768 + 8 * dist.toNat + l.toNat ∧ lz.dist = dist ∧ lz.len.toNat = l.toNat + 3 ∧
      ((dist.toNat = 0 ∨ s.out.length < dist.toNat) →
        exec (.bref dist l) s = .next ({ s with lz := lz }.raise .lzBadDistance s.ip)) ∧
      (1 ≤ dist.toNat → dist.toNat ≤ s.out.length → ¬ s.capacityFor (l.toNat + 3) →
        exec (.bref dist l) s = .next ({ s with lz := lz }.raise .outOverflow s.ip)) ∧
      (1 ≤ dist.toNat → dist.toNat ≤ s.out.length → s.capacityFor (l.toNat + 3) →
        exec (.bref dist l) s = .next
          { s with lz := lz, out := s.out ++ periodicCopy s.out dist.toNat (l.toNat + 3), ip := s.ip + 2 }))

/-- R85: SPC appends a space and the character `c XOR 0x80`, or neither. -/
def Obligations.SpcResult : Prop :=
  ∀ (c : Byte) (low : BitVec 6) (s : State), c.toNat = 192 + low.toNat →
    (s.capacityFor 2 → exec (.spc low) s = .next { s with out := s.out ++ [0x20, c ^^^ 0x80], ip := s.ip + 1 }) ∧
    (¬ s.capacityFor 2 → exec (.spc low) s = .next (s.raise .outOverflow s.ip))

/-! ### The LZ loop -/

/-- A step of the LZ loop runs the instruction that the bytes at `ip` decode to, with the control byte latched (R80,
R81). -/
def Obligations.LzStepRunsDecoded : Prop :=
  ∀ (s : State) (i : Instr) (rest : Bytes), s.status = .busy → s.engine = .lz →
    decodeLz (s.input.drop s.ip) = .ok i rest →
    ∃ c, s.input[s.ip]? = some c ∧ step s = exec i { s with lz := { s.lz with c := c } }

/-- One turn of the LZ loop in the numbers of R81 to R85: the control byte `c` at `ip` and the bytes after it decide what
is appended, or which fault is raised at `ip` with nothing appended. A BREF's copy is byte-serial: each byte it appends is
the one `dist` before it in the output it leaves. -/
def Obligations.LzLoopTurn : Prop :=
  ∀ (s : State) (c : Byte) (rest : Bytes), s.status = .busy → s.engine = .lz → s.input.drop s.ip = c :: rest →
    ((1 ≤ c.toNat ∧ c.toNat ≤ 8) →
      (rest.length < c.toNat → step s = .next ({ s with lz := { s.lz with c := c } }.raise .lzTruncated s.ip)) ∧
      (c.toNat ≤ rest.length → ¬ s.capacityFor c.toNat →
        step s = .next ({ s with lz := { s.lz with c := c } }.raise .outOverflow s.ip)) ∧
      (c.toNat ≤ rest.length → s.capacityFor c.toNat →
        step s = .next { s with
          lz := { s.lz with c := c }, out := s.out ++ rest.take c.toNat, ip := s.ip + 1 + c.toNat })) ∧
    ((c.toNat = 0 ∨ 9 ≤ c.toNat ∧ c.toNat ≤ 127) →
      (¬ s.capacityFor 1 → step s = .next ({ s with lz := { s.lz with c := c } }.raise .outOverflow s.ip)) ∧
      (s.capacityFor 1 →
        step s = .next { s with lz := { s.lz with c := c }, out := s.out ++ [c], ip := s.ip + 1 })) ∧
    ((128 ≤ c.toNat ∧ c.toNat ≤ 191) →
      (rest = [] → step s = .next ({ s with lz := { s.lz with c := c } }.raise .lzTruncated s.ip)) ∧
      ∀ (b : Byte) (rest' : Bytes), rest = b :: rest' → ∃ lz : LzLatches,
        lz.c = c ∧ lz.v.toNat = c.toNat * 256 + b.toNat ∧ lz.dist.toNat = (c.toNat * 256 + b.toNat) / 8 % 2048 ∧
        lz.len.toNat = (c.toNat * 256 + b.toNat) % 8 + 3 ∧
        ((lz.dist.toNat = 0 ∨ s.out.length < lz.dist.toNat) →
          step s = .next ({ s with lz := lz }.raise .lzBadDistance s.ip)) ∧
        (1 ≤ lz.dist.toNat → lz.dist.toNat ≤ s.out.length → ¬ s.capacityFor lz.len.toNat →
          step s = .next ({ s with lz := lz }.raise .outOverflow s.ip)) ∧
        (1 ≤ lz.dist.toNat → lz.dist.toNat ≤ s.out.length → s.capacityFor lz.len.toNat →
          ∃ out : Memory, out.length = s.out.length + lz.len.toNat ∧ out.take s.out.length = s.out ∧
            (∀ k, k < lz.len.toNat → out[s.out.length + k]? = out[s.out.length + k - lz.dist.toNat]?) ∧
            step s = .next { s with lz := lz, out := out, ip := s.ip + 2 })) ∧
    (192 ≤ c.toNat →
      (¬ s.capacityFor 2 → step s = .next ({ s with lz := { s.lz with c := c } }.raise .outOverflow s.ip)) ∧
      (s.capacityFor 2 →
        step s = .next { s with lz := { s.lz with c := c }, out := s.out ++ [0x20, c ^^^ 0x80], ip := s.ip + 1 }))

/-- The LZ loop ends the command with result OK when no byte is left (R80, R162). That a command runs over several steps
is the model's choice (notes/assumptions/1.md). -/
def Obligations.LzLoopEnds : Prop :=
  ∀ s : State, s.status = .busy → s.engine = .lz → s.input.length ≤ s.ip →
    step s = .next { s with status := .idle, input := [], result := some .ok }

/-- DECOMP_PALM run to its end computes the reference function written from R80 to R85: the same output, or the same
fault at the same position with the same output so far. Nothing of the configuration changes (R25, R86). -/
def Obligations.DecompPalmMeetsReference : Prop :=
  ∀ (p : Bytes) (s : State), s.status = .idle →
    ∃ t k u, exec (.decompPalm p) s = .next t ∧ Reaches t k u ∧
      (match lzReference s.params.outMax p.length 0 p s.out with
        | .ok o => u.status = .idle ∧ u.result = some .ok ∧ u.out = o ∧ u.faultCode = s.faultCode ∧
            u.faultPos = s.faultPos ∧ u.ip = p.length
        | .fault f pos o => u.status = .fault ∧ u.result = some (.fault f) ∧ u.out = o ∧ u.faultCode = f ∧
            u.faultPos = pos) ∧
      u.params = s.params ∧ u.host = s.host ∧ u.warnLeftover = s.warnLeftover ∧ u.huffValid = s.huffValid ∧
      u.cacheTable = s.cacheTable ∧ u.baseTable = s.baseTable ∧ u.dicts = s.dicts ∧ u.codeLength = s.codeLength ∧
      u.clValid = s.clValid

/-- A DECOMP_PALM of `n` bytes that succeeds adds at least `n / 2` (rounded up) and at most `5 n` bytes (R87). -/
def Obligations.LzOutputGrowth : Prop :=
  ∀ (p : Bytes) (s t : State) (k : Nat) (u : State), s.status = .idle → exec (.decompPalm p) s = .next t →
    Reaches t k u → (∀ j w, j < k → Reaches t j w → w.status = .busy) → u.status = .idle →
    ∃ added, u.out = s.out ++ added ∧ p.length ≤ 2 * added.length ∧ added.length ≤ 5 * p.length

/-! ### HD codes -/

/-- The pair of length `L` stands at entries `2L-2` and `2L-1` of the base table (R18). -/
def Obligations.BaseTablePairs : Prop :=
  ∀ (t : Vector U32 64) (L : Nat) (_ : 1 ≤ L) (_ : L ≤ 32), baseOf t L = t[2 * L - 2] ∧ maxOf t L = t[2 * L - 1]

/-- HCODE.T consumes `L` bits and latches its code: `(maxcode - top L bits) mod 2^32` under the default CodeT, and some
number under any other (R124, R127, R7). Only the frame's `bp`, the latches and the phase change. -/
def Obligations.HcodeTResult : Prop :=
  ∀ (maxcode : BitVec 24) (ignored : BitVec 2) (len : BitVec 5) (s : State) (f : Frame) (rest : List Frame),
    s.frames = f :: rest → len.toNat ≠ 0 → f.bp + len.toNat ≤ 8 * f.n →
    ∃ code : U32,
      (s.params.codeT = .formula →
        code.toNat = (maxcode.toNat + 2 ^ 32 - s.hd.w.toNat / 2 ^ (32 - len.toNat)) % 2 ^ 32) ∧
      exec (.hcodeT maxcode ignored len) s = .next
        { s with
          frames := { f with bp := f.bp + len.toNat } :: rest
          engine := .hdEntry
          hd := { s.hd with codeLen := len.toNat, code := code, start := f.bp } }

/-- HCODE.B consumes the least length `L` from its own up to 32 whose base value is at most the top `L` bits, and
latches its code: `(max[L] - top L bits) mod 2^32` under the default CodeB (R125, R126, R127, R7). -/
def Obligations.HcodeBResult : Prop :=
  ∀ (unused : BitVec 24) (ignored : BitVec 2) (len : BitVec 5) (L : Nat) (s : State) (f : Frame) (rest : List Frame),
    s.frames = f :: rest → len.toNat ≠ 0 → len.toNat ≤ L → L ≤ 32 →
    (baseOf s.baseTable L).toNat ≤ s.hd.w.toNat / 2 ^ (32 - L) →
    (∀ j, len.toNat ≤ j → j < L → s.hd.w.toNat / 2 ^ (32 - j) < (baseOf s.baseTable j).toNat) →
    f.bp + L ≤ 8 * f.n →
    ∃ code : U32,
      (s.params.codeB = .formula →
        code.toNat = ((maxOf s.baseTable L).toNat + 2 ^ 32 - s.hd.w.toNat / 2 ^ (32 - L)) % 2 ^ 32) ∧
      exec (.hcodeB unused ignored len) s = .next
        { s with
          frames := { f with bp := f.bp + L } :: rest
          engine := .hdEntry
          hd := { s.hd with codeLen := L, code := code, start := f.bp } }

/-- R125: the scan answers the least length from its start up to 32 that passes the base test; when none does, HCODE.B
faults HD_BASE_SCAN_OVERFLOW at the code's position. -/
def Obligations.BaseScanIsLeast : Prop :=
  (∀ (t : Vector U32 64) (w : U32) (len L : Nat), 1 ≤ len → len ≤ 31 →
    (scanBase t w len = some L ↔ len ≤ L ∧ L ≤ 32 ∧ (baseOf t L).toNat ≤ w.toNat / 2 ^ (32 - L) ∧
      ∀ j, len ≤ j → j < L → w.toNat / 2 ^ (32 - j) < (baseOf t j).toNat)) ∧
  (∀ (unused : BitVec 24) (ignored : BitVec 2) (len : BitVec 5) (s : State) (f : Frame) (rest : List Frame),
    s.frames = f :: rest → len.toNat ≠ 0 →
    (∀ j, len.toNat ≤ j → j ≤ 32 → s.hd.w.toNat / 2 ^ (32 - j) < (baseOf s.baseTable j).toNat) →
    exec (.hcodeB unused ignored len) s = .next (s.raise .hdBaseScanOverflow f.bp))

/-- A code of length 0 faults HD_ZERO_CODELEN at its position, whichever form it has (R123). -/
def Obligations.ZeroCodeLengthFaults : Prop :=
  ∀ (m : BitVec 24) (g : BitVec 2) (s : State) (f : Frame) (rest : List Frame), s.frames = f :: rest →
    exec (.hcodeT m g 0) s = .next (s.raise .hdZeroCodeLen f.bp) ∧
    exec (.hcodeB m g 0) s = .next (s.raise .hdZeroCodeLen f.bp)

/-- A code that does not fit its stream is not expanded: with leftover bits all zero the frame returns; with others it
returns with a warning, or faults HD_STRADDLE under that policy (R128). `u` is the state with the code's latches. -/
def Obligations.StraddlingCodeEndsFrame : Prop :=
  ∀ (i : Instr) (L : Nat) (s : State) (f : Frame) (rest : List Frame), s.frames = f :: rest → 8 * f.n < f.bp + L →
    (∃ (m : BitVec 24) (g : BitVec 2) (len : BitVec 5), len.toNat ≠ 0 ∧
      (i = .hcodeT m g len ∧ L = len.toNat ∨ i = .hcodeB m g len ∧ scanBase s.baseTable s.hd.w len.toNat = some L)) →
    ∃ u, (∃ code, u = { s with hd := { s.hd with codeLen := L, code := code, start := f.bp } }) ∧
      (s.hd.w = 0 → exec i s = .next u.returnFrame) ∧
      (s.hd.w ≠ 0 → s.params.straddlePolicy = .warn →
        exec i s = .next ({ u with warnLeftover := true }.returnFrame)) ∧
      (s.hd.w ≠ 0 → s.params.straddlePolicy = .fault → exec i s = .next (u.raise .hdStraddle f.bp))

/-! ### The HD loop -/

/-- A step of the HD loop latches the window and runs the code form that the cache word of its top 8 bits selects (R121
to R123); the padding stop does not apply while 8 or more bits remain (R129). -/
def Obligations.CodeStepRunsDecoded : Prop :=
  ∀ (s : State) (f : Frame) (rest : List Frame) (m : Memory) (w : U32), s.status = .busy → s.engine = .hdCode →
    s.frames = f :: rest → s.space f.space = some m → peek32 m f.base f.n f.bp = some w → f.bp < 8 * f.n →
    (f.bp + 8 ≤ 8 * f.n ∨ w ≠ 0) →
    ∃ v, s.cacheTable.toList[w.toNat / 2 ^ 24]? = some v ∧
      step s = exec (decodeCacheWord v) { s with hd := { s.hd with w := w, v := v, start := f.bp } }

/-- A frame ends cleanly when its stream is exhausted, or when fewer than 8 bits remain and all are zero: no table is
read, nothing is appended, no warning is set, and the loop of the frame below goes on (R122, R129, R147). -/
def Obligations.FrameEndsCleanly : Prop :=
  ∀ (s : State) (f : Frame) (rest : List Frame), s.status = .busy → s.engine = .hdCode → s.frames = f :: rest →
    (8 * f.n ≤ f.bp ∨
      8 * f.n < f.bp + 8 ∧ ∃ m, s.space f.space = some m ∧ peek32 m f.base f.n f.bp = some 0) →
    step s = .next { s with
      frames := rest
      guard := if f.key0 = none then s.guard else s.guard.tail
      engine := .hdCode }

/-- When the outermost frame has returned DECOMP_HUFF ends with result OK and the warning flag as it stands (R120,
R162). -/
def Obligations.HdCommandEnds : Prop :=
  ∀ s : State, s.status = .busy → s.engine = .hdCode → s.frames = [] →
    step s = .next { s with status := .idle, input := [], result := some (.okWarn s.warnLeftover) }

/-! ### The dictionary -/

/-- R67: the split of a code, on naturals, for every code length. -/
def Obligations.CodeSplit : Prop :=
  ∀ cl code : U32,
    splitDict cl code = code.toNat / 2 ^ cl.toNat ∧ splitKey cl code = code.toNat % 2 ^ cl.toNat ∧
    (32 ≤ cl.toNat → splitDict cl code = 0 ∧ splitKey cl code = code.toNat)

/-- The lookup faults at the first test that fails, at the position of the code: blob number, offset-table slot, entry
header, entry body (R140 to R144, R187). Only the HD latches change before the fault entry. -/
def Obligations.LookupFaults : Prop :=
  ∀ s : State, s.status = .busy → s.engine = .hdEntry →
    (s.clValid = false ∨ s.dictsCount ≤ splitDict s.codeLength s.hd.code →
      ∃ hd, step s = .next ({ s with hd := hd }.raise .hdBadDict s.hd.start)) ∧
    ∀ D : Memory, s.clValid = true → s.dicts[splitDict s.codeLength s.hd.code]? = some D →
      (D.length < 2 * splitKey s.codeLength s.hd.code + 2 →
        ∃ hd, step s = .next ({ s with hd := hd }.raise .hdBadOffset s.hd.start)) ∧
      ∀ off : U16, memRead16 D (2 * splitKey s.codeLength s.hd.code) = some off →
        (D.length < off.toNat + 2 → ∃ hd, step s = .next ({ s with hd := hd }.raise .hdBadOffset s.hd.start)) ∧
        ∀ h : U16, memRead16 D off.toNat = some h → D.length < off.toNat + 2 + h.toNat % 32768 →
          ∃ hd, step s = .next ({ s with hd := hd }.raise .hdBadSymLen s.hd.start)

/-- When every test of the lookup passes the step runs the entry that the header selects, with the lookup's latches
(R140 to R144). -/
def Obligations.EntryStepRunsDecoded : Prop :=
  ∀ (s : State) (D : Memory) (off h : U16), s.status = .busy → s.engine = .hdEntry → s.clValid = true →
    s.dicts[splitDict s.codeLength s.hd.code]? = some D →
    memRead16 D (2 * splitKey s.codeLength s.hd.code) = some off → memRead16 D off.toNat = some h →
    off.toNat + 2 + h.toNat % 32768 ≤ D.length →
    ∃ l : BitVec 15, l.toNat = h.toNat % 32768 ∧
      step s = exec (decodeEntryHeader h) { s with hd := { s.hd with
        dict := splitDict s.codeLength s.hd.code, key := splitKey s.codeLength s.hd.code, off := off, symLen := h,
        len := l } }

/-- R145: ENT.LIT appends the entry's body; longer than 127 bytes, and then too long for OUT, it faults at the code's
position and appends nothing. -/
def Obligations.EntLitResult : Prop :=
  ∀ (len : BitVec 15) (s : State),
    (127 < len.toNat → exec (.entLit len) s = .next (s.raise .hdSymLenTooBig s.hd.start)) ∧
    (len.toNat ≤ 127 → ¬ s.capacityFor len.toNat →
      exec (.entLit len) s = .next (s.raise .outOverflow s.hd.start)) ∧
    (∀ D : Memory, len.toNat ≤ 127 → s.capacityFor len.toNat → s.dicts[s.hd.dict]? = some D →
      s.hd.off.toNat + 2 + len.toNat ≤ D.length →
      exec (.entLit len) s = .next
        { s with out := s.out ++ (D.drop (s.hd.off.toNat + 2)).take len.toNat, engine := .hdCode })

/-- R146: ENT.REC faults when its guard key is in the guard, then when the guard is full; otherwise it pushes the key
and opens a frame over the fragment. The key is the whole code, or its key part under GUARD_KEY = masked. -/
def Obligations.EntRecResult : Prop :=
  ∀ (len : BitVec 15) (g : U32) (s : State),
    (s.params.guardKey = .full → g = s.hd.code) → (s.params.guardKey = .masked → g.toNat = s.hd.key) →
    (g ∈ s.guard → exec (.entRec len) s = .next (s.raise .hdInfiniteRecursion s.hd.start)) ∧
    (∀ cap, g ∉ s.guard → s.params.guardCap = some cap → cap ≤ s.guard.length →
      exec (.entRec len) s = .next (s.raise .guardOverflow s.hd.start)) ∧
    (g ∉ s.guard → (∀ cap, s.params.guardCap = some cap → s.guard.length < cap) →
      exec (.entRec len) s = .next
        { s with
          guard := g :: s.guard
          frames := ⟨.dict s.hd.dict, s.hd.off.toNat + 2, len.toNat, 0, some g⟩ :: s.frames
          engine := .hdCode })

/-- The frames below the innermost one never change while it runs: a step of a running DECOMP_HUFF that does not end it
keeps them, moves the innermost frame's `bp` forward inside its stream, opens a frame above it, or returns from it
(R127, R147). -/
def Obligations.CallerFramesUntouched : Prop :=
  ∀ (s t : State) (f : Frame) (rest : List Frame), s.hdRunning → s.frames = f :: rest → step s = .next t →
    t.status = .busy →
    t.frames = rest ∨ t.frames = f :: rest ∨
      (∃ L, 1 ≤ L ∧ f.bp + L ≤ 8 * f.n ∧ t.frames = { f with bp := f.bp + L } :: rest) ∨
      (∃ g, g.bp = 0 ∧ g.key0 ≠ none ∧ t.frames = g :: f :: rest)

/-! ### Host commands -/

/-- R163: RESET gives every register that R24 gives a value its reset value, in every state. It does not touch the
parameters (R211). That the host's further commands stay queued is the model's choice (notes/assumptions/22.md). -/
def Obligations.ResetResult : Prop :=
  ∀ s : State, ∃ t, exec .reset s = .next t ∧
    t.status = .idle ∧ t.status.code = 0 ∧ t.faultCode = .none ∧ t.faultCode.code = 0 ∧ t.faultPos = 0 ∧
    t.warnLeftover = false ∧ t.out = [] ∧ t.outLen = 0 ∧ t.huffValid = false ∧ t.dictsCount = 0 ∧ t.clValid = false ∧
    t.frames = [] ∧ t.guard = [] ∧ t.params = s.params ∧ t.host = s.host ∧ t.result = some .ok

/-- In FAULT every command but RESET is refused: nothing changes, and the result is the first fault's (R161, R191). -/
def Obligations.RefusedInFault : Prop :=
  ∀ (s : State) (r : Bytes) (i : Instr), s.status = .fault →
    i ∈ [Instr.setHuff r, .addCdic r, .decompPalm r, .decompHuff r] →
    exec i s = .next { s with result := some (.fault s.faultCode) }

/-- SET_HUFF of a good record loads both tables from their big-endian images and changes nothing else of the
configuration (R101, R103, R104). -/
def Obligations.SetHuffLoadsTables : Prop :=
  ∀ (r : Bytes) (s : State), s.status ≠ .fault → 1304 ≤ r.length → r.take 4 = [0x48, 0x55, 0x46, 0x46] →
    memRead r 4 4 = some 24 → memRead r 8 4 = some 24 → memRead r 12 4 = some 1048 →
    ∃ (cache : Vector U32 256) (base : Vector U32 64),
      (∀ i (_ : i < 256), memRead r (24 + 4 * i) 4 = some cache[i].toNat) ∧
      (∀ j (_ : j < 64), memRead r (1048 + 4 * j) 4 = some base[j].toNat) ∧
      exec (.setHuff r) s = .next { s with
        cacheTable := cache, baseTable := base, huffValid := true, status := .idle, input := [], result := some .ok }

/-- R101: SET_HUFF makes its tests in order; the first that fails decides the fault, at position 0, and no table
changes. -/
def Obligations.SetHuffFaults : Prop :=
  ∀ (r : Bytes) (s : State), s.status ≠ .fault →
    (r.length < 1304 → exec (.setHuff r) s = .next (s.raise .huffShort 0)) ∧
    (1304 ≤ r.length →
      (r.take 4 ≠ [0x48, 0x55, 0x46, 0x46] → exec (.setHuff r) s = .next (s.raise .huffBadMagic 0)) ∧
      (r.take 4 = [0x48, 0x55, 0x46, 0x46] →
        (memRead r 4 4 ≠ some 24 → exec (.setHuff r) s = .next (s.raise .huffBadHdrLen 0)) ∧
        (memRead r 4 4 = some 24 →
          (memRead r 8 4 ≠ some 24 → exec (.setHuff r) s = .next (s.raise .huffBadCacheOffset 0)) ∧
          (memRead r 8 4 = some 24 → memRead r 12 4 ≠ some 1048 →
            exec (.setHuff r) s = .next (s.raise .huffBadBaseOffset 0)))))

/-- R106: the CDIC size test, with `2^cl` never truncated. -/
def Obligations.CdicSizeTest : Prop :=
  ∀ (p : Params) (size : Nat) (cl : U32), cdicSizeOk p size cl = true ↔
    match p.cdicSizeCheck with
    | .doc => size < 2 ^ cl.toNat
    | .inverse => 2 ^ cl.toNat < size
    | .none => True

/-- ADD_CDIC of a record that passes its tests appends its blob, and makes `codeLength` the minimum of the record's and
the former one (R105, R107, R108). Nothing else of the configuration changes. -/
def Obligations.AddCdicAppendsBlob : Prop :=
  ∀ (r : Bytes) (s : State) (cl newCL : U32), s.status ≠ .fault → s.dictsCount < 32 → 16 ≤ r.length →
    r.take 4 = [0x43, 0x44, 0x49, 0x43] → memRead r 4 4 = some 16 → memRead r 12 4 = some cl.toNat →
    newCL.toNat = (if s.clValid then min s.codeLength.toNat cl.toNat else cl.toNat) →
    cdicSizeOk s.params (r.length - 16) newCL = true →
    exec (.addCdic r) s = .next { s with
      dicts := s.dicts ++ [r.drop 16], codeLength := newCL, clValid := true, status := .idle, input := [],
      result := some .ok }

/-- ADD_CDIC makes its tests in order; the first that fails decides the fault, at position 0, and nothing of the
configuration changes (R105). With 32 blobs held the record is not looked at (R109). -/
def Obligations.AddCdicFaults : Prop :=
  ∀ (r : Bytes) (s : State), s.status ≠ .fault →
    (32 ≤ s.dictsCount → exec (.addCdic r) s = .next (s.raise .cdicTooMany 0)) ∧
    (s.dictsCount < 32 →
      (r.length < 16 → exec (.addCdic r) s = .next (s.raise .cdicShort 0)) ∧
      (16 ≤ r.length →
        (r.take 4 ≠ [0x43, 0x44, 0x49, 0x43] → exec (.addCdic r) s = .next (s.raise .cdicBadMagic 0)) ∧
        (r.take 4 = [0x43, 0x44, 0x49, 0x43] →
          (memRead r 4 4 ≠ some 16 → exec (.addCdic r) s = .next (s.raise .cdicBadHdrLen 0)) ∧
          (∀ cl newCL : U32, memRead r 4 4 = some 16 → memRead r 12 4 = some cl.toNat →
            newCL.toNat = (if s.clValid then min s.codeLength.toNat cl.toNat else cl.toNat) →
            cdicSizeOk s.params (r.length - 16) newCL = false →
            exec (.addCdic r) s = .next (s.raise .cdicBadSize 0)))))

/-- DECOMP_PALM outside FAULT enters the LZ loop at `ip = 0` with OUT as it stands (R80, R161, R14). That the loop's turns
are steps of their own is the model's choice (notes/assumptions/1.md). -/
def Obligations.DecompPalmEntry : Prop :=
  ∀ (p : Bytes) (s : State), s.status ≠ .fault →
    exec (.decompPalm p) s = .next { s with status := .busy, input := p, engine := .lz, ip := 0 }

/-- DECOMP_HUFF outside FAULT clears the warning flag and enters the outermost frame with an empty guard, or faults
HD_NOT_CONFIGURED when no SET_HUFF has succeeded (R120, R161). That the loop's turns are steps of their own is the
model's choice (notes/assumptions/1.md). -/
def Obligations.DecompHuffEntry : Prop :=
  ∀ (p : Bytes) (s : State), s.status ≠ .fault →
    (s.huffValid = true → exec (.decompHuff p) s = .next { s with
      status := .busy, warnLeftover := false, input := p, engine := .hdCode,
      frames := [⟨.input, 0, p.length, 0, none⟩], guard := [] }) ∧
    (s.huffValid = false →
      exec (.decompHuff p) s = .next ({ s with warnLeftover := false }.raise .hdNotConfigured 0))

/-- The unit runs the host's next command when none is running, and waits when the host has none (R10, R219; the waiting
is the model's choice, notes/assumptions/2.md). -/
def Obligations.CommandStep : Prop :=
  ∀ s : State, s.status ≠ .busy →
    (∀ c cs, s.host = c :: cs → step s = exec c.instr { s with host := cs }) ∧ (s.host = [] → step s = .next s)

/-! ### Faults -/

/-- Fault entry writes the code, the position and the status, and empties the frame stack and the guard; the command
ends with result FAULT (R190). Everything else is as it was; the payload is no longer held (R23). -/
def Obligations.FaultEntry : Prop :=
  ∀ (s : State) (f : FaultName) (pos : Nat), s.raise f pos = { s with
    faultCode := f, faultPos := pos, status := .fault, frames := [], guard := [], input := [],
    result := some (.fault f) }

/-- A step that enters FAULT has appended no byte and changed no table, blob, code length or flag of the configuration
(R190). From a running decompress command the warning flag keeps its value too. -/
def Obligations.FaultsArePrecise : Prop :=
  ∀ s t : State, step s = .next t → s.status ≠ .fault → t.status = .fault →
    t.out = s.out ∧ t.huffValid = s.huffValid ∧ t.cacheTable = s.cacheTable ∧ t.baseTable = s.baseTable ∧
    t.dicts = s.dicts ∧ t.codeLength = s.codeLength ∧ t.clValid = s.clValid ∧ t.frames = [] ∧ t.guard = [] ∧
    t.faultCode ≠ .none ∧ t.result = some (.fault t.faultCode) ∧ (s.status = .busy → t.warnLeftover = s.warnLeftover)

/-- FAULT is sticky: a step in FAULT changes nothing but the command queue and the result, unless the command is RESET
(R11, R191). -/
def Obligations.FaultIsSticky : Prop :=
  ∀ s t : State, s.status = .fault → step s = .next t →
    t = { s with host := t.host, result := t.result } ∨ ∃ cs, s.host = .reset :: cs ∧ t.status = .idle

/-- R181: under the default parameters the codes 0x28, 0x30 and 0x31 cannot occur; no code outside the table ever
stands in `fault_code`. -/
def Obligations.DefaultFaultCodes : Prop :=
  (∀ s t : State, s.params = {} → s.faultCode ∉ [FaultName.hdStraddle, .outOverflow, .guardOverflow] →
    step s = .next t → t.faultCode ∉ [FaultName.hdStraddle, .outOverflow, .guardOverflow]) ∧
  (∀ f : FaultName, f.code.toNat ∈ [0x00, 0x01, 0x02, 0x10, 0x11, 0x12, 0x13, 0x14, 0x18, 0x19, 0x1A, 0x1B, 0x1C, 0x20,
    0x21, 0x22, 0x23, 0x24, 0x25, 0x26, 0x27, 0x28, 0x30, 0x31]) ∧
  (∀ f g : FaultName, f.code = g.code → f = g)

/-! ### The whole machine -/

/-- The invariant holds at reset (R24). -/
def Obligations.ResetMeetsInvariant : Prop := State.reset.Inv

/-- Every step keeps the invariant: frames inside their spaces, the guard the keys of the frame stack without a
repetition, both empty outside DECOMP_HUFF, FAULT exactly with a fault code, `ip` inside the payload, at most 32 blobs,
the capacities kept (R7, R11, R12, R15, R16, R19 to R23, R45, R146). -/
def Obligations.StepKeepsInvariant : Prop :=
  ∀ s t : State, s.Inv → step s = .next t → t.Inv

/-- From a state that meets the invariant every step answers a next state: no access leaves its space and nothing is
undecodable (R45, R62, R131, R162). -/
def Obligations.StepNeverStops : Prop :=
  ∀ s : State, s.Inv → ∃ t, step s = .next t

/-- Every command ends: from every state that meets the invariant with a command running, some number of steps leads to
a state with none running (R86, R130, R162). -/
def Obligations.CommandsTerminate : Prop :=
  ∀ s : State, s.Inv → ∃ k t, Reaches s k t ∧ t.status ≠ .busy

/-- No byte of OUT is ever changed or removed except by RESET (R14). -/
def Obligations.OutOnlyGrows : Prop :=
  ∀ s t : State, step s = .next t →
    s.out <+: t.out ∨ (s.status ≠ .busy ∧ ∃ cs, s.host = .reset :: cs ∧ t.out = [])

/-- The HD engine never reads OUT: with no capacity set, a step of a running DECOMP_HUFF does the same whatever bytes
earlier commands left in front of it (R14, R215). -/
def Obligations.HdNeverReadsOut : Prop :=
  ∀ (s t : State) (earlier : Bytes), s.hdRunning → s.params.outMax = none → step s = .next t →
    step { s with out := earlier ++ s.out } = .next { t with out := earlier ++ t.out }

/-- No stream instruction writes a table, a blob, the code length, a valid bit, the parameters or the host's commands,
and an LZ instruction does not write the warning flag or a frame unless it faults (R13, R25, R196). -/
def Obligations.StreamInstrWritesNoConfiguration : Prop :=
  ∀ (i : Instr) (s t : State), streamInstr i = true → exec i s = .next t →
    t.huffValid = s.huffValid ∧ t.cacheTable = s.cacheTable ∧ t.baseTable = s.baseTable ∧ t.dicts = s.dicts ∧
    t.codeLength = s.codeLength ∧ t.clValid = s.clValid ∧ t.params = s.params ∧ t.host = s.host ∧
    (∀ bs, encode i = some (.lz, bs) → t.warnLeftover = s.warnLeftover ∧ t.hd = s.hd ∧
      (t.status ≠ .fault → t.frames = s.frames ∧ t.guard = s.guard ∧ t.engine = s.engine ∧ t.input = s.input ∧
        t.faultCode = s.faultCode ∧ t.faultPos = s.faultPos ∧ t.result = s.result)) ∧
    (∀ e bs, e ≠ .lz → encode i = some (e, bs) → t.ip = s.ip ∧ t.lz = s.lz)

/-- R211: the parameters are fixed for the life of the unit. -/
def Obligations.ParametersFixed : Prop := ∀ s t : State, step s = .next t → t.params = s.params

/-- Until RESET the blobs held stay as they were accepted, and `codeLength` never grows (R19, R20, R107). -/
def Obligations.BlobsKeptUntilReset : Prop :=
  ∀ s t : State, step s = .next t →
    (s.dicts <+: t.dicts ∧ (s.clValid = true → t.clValid = true ∧ t.codeLength.toNat ≤ s.codeLength.toNat)) ∨
      (s.status ≠ .busy ∧ ∃ cs, s.host = .reset :: cs)

/-- The step after an instruction was placed runs the instruction the opcode table's word decodes to (the placing is the
model's own, notes/assumptions/12.md). -/
def Obligations.PlacedWordRuns : Prop :=
  ∀ (s : State) (nbits w : Nat) (i : Instr), decodeTableWord nbits w = some i →
    ∃ t, t.out = s.out ∧ t.params = s.params ∧ step (s.withFetchWord nbits w) = exec i t
end

