-- ==== Sys2Proof/Laws/Decode.lean ====
section
/-! SUPPORT. What the decoder can answer, and that it looks no further than the instruction it reads. -/

namespace Sys2Proof

/-- A decoded LZ instruction is one of the four, with the bytes it took (R61). -/
theorem decodeLz_ok_cases {bs rest : Bytes} {i : Instr} (h : decodeLz bs = .ok i rest) :
    (∃ c data, i = .run data ∧ bs = c :: (data ++ rest) ∧ data.length = c.toNat ∧ 1 ≤ c.toNat ∧ c.toNat ≤ 8) ∨
      (∃ c, i = .lit c ∧ bs = c :: rest ∧ ¬ (1 ≤ c.toNat ∧ c.toNat ≤ 8) ∧ c.toNat < 128) ∨
      (∃ c b, i = .bref (brefDist (brefWord c b)) (brefLenField (brefWord c b)) ∧ bs = c :: b :: rest ∧
        128 ≤ c.toNat ∧ c.toNat < 192) ∨
      (∃ c, i = .spc (c.extractLsb' 0 6) ∧ bs = c :: rest ∧ 192 ≤ c.toNat) := by
  cases bs with
  | nil => cases h
  | cons c tl =>
    simp only [decodeLz] at h
    split at h
    · rename_i h1
      split at h
      · cases h
      · cases h
        exact .inl ⟨c, _, rfl, by simp, by rw [List.length_take]; omega, h1.1, h1.2⟩
    · split at h
      · cases h
        exact .inr (.inl ⟨c, rfl, rfl, ‹_›, ‹_›⟩)
      · split at h
        · cases tl with
          | nil => cases h
          | cons b tl =>
            cases h
            exact .inr (.inr (.inl ⟨c, b, rfl, rfl, by omega, by omega⟩))
        · cases h
          exact .inr (.inr (.inr ⟨c, rfl, rfl, by omega⟩))

/-- Bytes after the instruction do not change what is read. -/
theorem decodeLz_append {bs rest : Bytes} {i : Instr} (h : decodeLz bs = .ok i rest) (more : Bytes) :
    decodeLz (bs ++ more) = .ok i (rest ++ more) := by
  rcases decodeLz_ok_cases h with ⟨c, data, rfl, rfl, hl, h1, h8⟩ | ⟨c, rfl, rfl, hc, h7⟩ | ⟨c, b, rfl, rfl, h1, h2⟩ |
      ⟨c, rfl, rfl, h1⟩
  · have h9 : ¬ (data ++ (rest ++ more)).length < c.toNat := by simp only [List.length_append]; omega
    simp only [List.cons_append, List.append_assoc, decodeLz]
    rw [if_pos ⟨h1, h8⟩, if_neg h9, ← hl, List.take_left, List.drop_left]
  · simp [decodeLz, hc, h7]
  · have : ¬ (1 ≤ c.toNat ∧ c.toNat ≤ 8) := by omega
    have : ¬ c.toNat < 128 := by omega
    simp [decodeLz, *]
  · have : ¬ (1 ≤ c.toNat ∧ c.toNat ≤ 8) := by omega
    have : ¬ c.toNat < 128 := by omega
    have : ¬ c.toNat < 192 := by omega
    simp [decodeLz, *]

/-- Bytes are rejected exactly when the instruction is not all there (R65). -/
theorem decodeLz_error_cases {bs : Bytes} {e : DecodeError} (h : decodeLz bs = .error e) :
    (bs = [] ∧ e = .empty) ∨
      (∃ c tl, bs = c :: tl ∧ e = .truncatedRun ∧ 1 ≤ c.toNat ∧ c.toNat ≤ 8 ∧ tl.length < c.toNat) ∨
      (∃ c, bs = [c] ∧ e = .truncatedBref ∧ 128 ≤ c.toNat ∧ c.toNat < 192) := by
  cases bs with
  | nil => cases h; exact .inl ⟨rfl, rfl⟩
  | cons c tl =>
    simp only [decodeLz] at h
    split at h
    · rename_i h1
      split at h
      · cases h; exact .inr (.inl ⟨c, tl, rfl, rfl, h1.1, h1.2, ‹_›⟩)
      · cases h
    · split at h
      · cases h
      · split at h
        · cases tl with
          | nil => cases h; exact .inr (.inr ⟨c, rfl, rfl, by omega, by omega⟩)
          | cons b tl => cases h
        · cases h

/-- Nine bytes always hold an LZ instruction (R61, R62). -/
theorem decodeLz_of_long {c : Byte} {tl : Bytes} (h : 8 ≤ tl.length) : ∃ i rest, decodeLz (c :: tl) = .ok i rest := by
  cases e : decodeLz (c :: tl) with
  | ok i rest => exact ⟨i, rest, rfl⟩
  | error e' =>
    rcases decodeLz_error_cases e with ⟨h', _⟩ | ⟨c', tl', h', _, _, _, h3⟩ | ⟨c', h', _⟩
    · cases h'
    · cases h'; omega
    · cases h'; simp at h

/-- A cache word is one of the two code forms, told apart by bit 7 (R66). -/
theorem decodeCacheWord_cases (v : U32) :
    (cacheTerm v = true ∧ decodeCacheWord v = .hcodeT (cacheMaxcode v) (cacheIgnored v) (cacheLen v)) ∨
      (cacheTerm v = false ∧ decodeCacheWord v = .hcodeB (cacheMaxcode v) (cacheIgnored v) (cacheLen v)) := by
  unfold decodeCacheWord
  cases h : cacheTerm v <;> simp

/-- An entry header is one of the two kinds, told apart by bit 15 (R68). -/
theorem decodeEntryHeader_cases (h : U16) :
    (entryLit h = true ∧ decodeEntryHeader h = .entLit (entryLen h)) ∨
      (entryLit h = false ∧ decodeEntryHeader h = .entRec (entryLen h)) := by
  unfold decodeEntryHeader
  cases e : entryLit h <;> simp

end Sys2Proof
end

