-- ==== Sys2Proof/Laws/State.lean ====
section
/-! SUPPORT. One lemma per field for each update of the state, true by rfl: no later proof unfolds a record update. -/

namespace Sys2Proof.Machine

open Sys2Proof

variable (s : State)

/-! ### appendOut -/

@[simp] theorem State.appendOut_params (bs : Bytes) : (s.appendOut bs).params = s.params := rfl
@[simp] theorem State.appendOut_host (bs : Bytes) : (s.appendOut bs).host = s.host := rfl
@[simp] theorem State.appendOut_result (bs : Bytes) : (s.appendOut bs).result = s.result := rfl
@[simp] theorem State.appendOut_status (bs : Bytes) : (s.appendOut bs).status = s.status := rfl
@[simp] theorem State.appendOut_faultCode (bs : Bytes) : (s.appendOut bs).faultCode = s.faultCode := rfl
@[simp] theorem State.appendOut_faultPos (bs : Bytes) : (s.appendOut bs).faultPos = s.faultPos := rfl
@[simp] theorem State.appendOut_warnLeftover (bs : Bytes) : (s.appendOut bs).warnLeftover = s.warnLeftover := rfl
@[simp] theorem State.appendOut_out (bs : Bytes) : (s.appendOut bs).out = s.out ++ bs := rfl
@[simp] theorem State.appendOut_input (bs : Bytes) : (s.appendOut bs).input = s.input := rfl
@[simp] theorem State.appendOut_engine (bs : Bytes) : (s.appendOut bs).engine = s.engine := rfl
@[simp] theorem State.appendOut_ip (bs : Bytes) : (s.appendOut bs).ip = s.ip := rfl
@[simp] theorem State.appendOut_lz (bs : Bytes) : (s.appendOut bs).lz = s.lz := rfl
@[simp] theorem State.appendOut_huffValid (bs : Bytes) : (s.appendOut bs).huffValid = s.huffValid := rfl
@[simp] theorem State.appendOut_cacheTable (bs : Bytes) : (s.appendOut bs).cacheTable = s.cacheTable := rfl
@[simp] theorem State.appendOut_baseTable (bs : Bytes) : (s.appendOut bs).baseTable = s.baseTable := rfl
@[simp] theorem State.appendOut_dicts (bs : Bytes) : (s.appendOut bs).dicts = s.dicts := rfl
@[simp] theorem State.appendOut_codeLength (bs : Bytes) : (s.appendOut bs).codeLength = s.codeLength := rfl
@[simp] theorem State.appendOut_clValid (bs : Bytes) : (s.appendOut bs).clValid = s.clValid := rfl
@[simp] theorem State.appendOut_frames (bs : Bytes) : (s.appendOut bs).frames = s.frames := rfl
@[simp] theorem State.appendOut_guard (bs : Bytes) : (s.appendOut bs).guard = s.guard := rfl
@[simp] theorem State.appendOut_hd (bs : Bytes) : (s.appendOut bs).hd = s.hd := rfl

/-! ### advance -/

@[simp] theorem State.advance_params (k : Nat) : (s.advance k).params = s.params := rfl
@[simp] theorem State.advance_host (k : Nat) : (s.advance k).host = s.host := rfl
@[simp] theorem State.advance_result (k : Nat) : (s.advance k).result = s.result := rfl
@[simp] theorem State.advance_status (k : Nat) : (s.advance k).status = s.status := rfl
@[simp] theorem State.advance_faultCode (k : Nat) : (s.advance k).faultCode = s.faultCode := rfl
@[simp] theorem State.advance_faultPos (k : Nat) : (s.advance k).faultPos = s.faultPos := rfl
@[simp] theorem State.advance_warnLeftover (k : Nat) : (s.advance k).warnLeftover = s.warnLeftover := rfl
@[simp] theorem State.advance_out (k : Nat) : (s.advance k).out = s.out := rfl
@[simp] theorem State.advance_input (k : Nat) : (s.advance k).input = s.input := rfl
@[simp] theorem State.advance_engine (k : Nat) : (s.advance k).engine = s.engine := rfl
@[simp] theorem State.advance_ip (k : Nat) : (s.advance k).ip = s.ip + k := rfl
@[simp] theorem State.advance_lz (k : Nat) : (s.advance k).lz = s.lz := rfl
@[simp] theorem State.advance_huffValid (k : Nat) : (s.advance k).huffValid = s.huffValid := rfl
@[simp] theorem State.advance_cacheTable (k : Nat) : (s.advance k).cacheTable = s.cacheTable := rfl
@[simp] theorem State.advance_baseTable (k : Nat) : (s.advance k).baseTable = s.baseTable := rfl
@[simp] theorem State.advance_dicts (k : Nat) : (s.advance k).dicts = s.dicts := rfl
@[simp] theorem State.advance_codeLength (k : Nat) : (s.advance k).codeLength = s.codeLength := rfl
@[simp] theorem State.advance_clValid (k : Nat) : (s.advance k).clValid = s.clValid := rfl
@[simp] theorem State.advance_frames (k : Nat) : (s.advance k).frames = s.frames := rfl
@[simp] theorem State.advance_guard (k : Nat) : (s.advance k).guard = s.guard := rfl
@[simp] theorem State.advance_hd (k : Nat) : (s.advance k).hd = s.hd := rfl

/-! ### raise -/

@[simp] theorem State.raise_params (f : FaultName) (pos : Nat) : (s.raise f pos).params = s.params := rfl
@[simp] theorem State.raise_host (f : FaultName) (pos : Nat) : (s.raise f pos).host = s.host := rfl
@[simp] theorem State.raise_result (f : FaultName) (pos : Nat) : (s.raise f pos).result = some (.fault f) := rfl
@[simp] theorem State.raise_status (f : FaultName) (pos : Nat) : (s.raise f pos).status = .fault := rfl
@[simp] theorem State.raise_faultCode (f : FaultName) (pos : Nat) : (s.raise f pos).faultCode = f := rfl
@[simp] theorem State.raise_faultPos (f : FaultName) (pos : Nat) : (s.raise f pos).faultPos = pos := rfl
@[simp] theorem State.raise_warnLeftover (f : FaultName) (pos : Nat) : (s.raise f pos).warnLeftover = s.warnLeftover := rfl
@[simp] theorem State.raise_out (f : FaultName) (pos : Nat) : (s.raise f pos).out = s.out := rfl
@[simp] theorem State.raise_input (f : FaultName) (pos : Nat) : (s.raise f pos).input = [] := rfl
@[simp] theorem State.raise_engine (f : FaultName) (pos : Nat) : (s.raise f pos).engine = s.engine := rfl
@[simp] theorem State.raise_ip (f : FaultName) (pos : Nat) : (s.raise f pos).ip = s.ip := rfl
@[simp] theorem State.raise_lz (f : FaultName) (pos : Nat) : (s.raise f pos).lz = s.lz := rfl
@[simp] theorem State.raise_huffValid (f : FaultName) (pos : Nat) : (s.raise f pos).huffValid = s.huffValid := rfl
@[simp] theorem State.raise_cacheTable (f : FaultName) (pos : Nat) : (s.raise f pos).cacheTable = s.cacheTable := rfl
@[simp] theorem State.raise_baseTable (f : FaultName) (pos : Nat) : (s.raise f pos).baseTable = s.baseTable := rfl
@[simp] theorem State.raise_dicts (f : FaultName) (pos : Nat) : (s.raise f pos).dicts = s.dicts := rfl
@[simp] theorem State.raise_codeLength (f : FaultName) (pos : Nat) : (s.raise f pos).codeLength = s.codeLength := rfl
@[simp] theorem State.raise_clValid (f : FaultName) (pos : Nat) : (s.raise f pos).clValid = s.clValid := rfl
@[simp] theorem State.raise_frames (f : FaultName) (pos : Nat) : (s.raise f pos).frames = [] := rfl
@[simp] theorem State.raise_guard (f : FaultName) (pos : Nat) : (s.raise f pos).guard = [] := rfl
@[simp] theorem State.raise_hd (f : FaultName) (pos : Nat) : (s.raise f pos).hd = s.hd := rfl

/-! ### finish -/

@[simp] theorem State.finish_params (r : CmdResult) : (s.finish r).params = s.params := rfl
@[simp] theorem State.finish_host (r : CmdResult) : (s.finish r).host = s.host := rfl
@[simp] theorem State.finish_result (r : CmdResult) : (s.finish r).result = some r := rfl
@[simp] theorem State.finish_status (r : CmdResult) : (s.finish r).status = .idle := rfl
@[simp] theorem State.finish_faultCode (r : CmdResult) : (s.finish r).faultCode = s.faultCode := rfl
@[simp] theorem State.finish_faultPos (r : CmdResult) : (s.finish r).faultPos = s.faultPos := rfl
@[simp] theorem State.finish_warnLeftover (r : CmdResult) : (s.finish r).warnLeftover = s.warnLeftover := rfl
@[simp] theorem State.finish_out (r : CmdResult) : (s.finish r).out = s.out := rfl
@[simp] theorem State.finish_input (r : CmdResult) : (s.finish r).input = [] := rfl
@[simp] theorem State.finish_engine (r : CmdResult) : (s.finish r).engine = s.engine := rfl
@[simp] theorem State.finish_ip (r : CmdResult) : (s.finish r).ip = s.ip := rfl
@[simp] theorem State.finish_lz (r : CmdResult) : (s.finish r).lz = s.lz := rfl
@[simp] theorem State.finish_huffValid (r : CmdResult) : (s.finish r).huffValid = s.huffValid := rfl
@[simp] theorem State.finish_cacheTable (r : CmdResult) : (s.finish r).cacheTable = s.cacheTable := rfl
@[simp] theorem State.finish_baseTable (r : CmdResult) : (s.finish r).baseTable = s.baseTable := rfl
@[simp] theorem State.finish_dicts (r : CmdResult) : (s.finish r).dicts = s.dicts := rfl
@[simp] theorem State.finish_codeLength (r : CmdResult) : (s.finish r).codeLength = s.codeLength := rfl
@[simp] theorem State.finish_clValid (r : CmdResult) : (s.finish r).clValid = s.clValid := rfl
@[simp] theorem State.finish_frames (r : CmdResult) : (s.finish r).frames = s.frames := rfl
@[simp] theorem State.finish_guard (r : CmdResult) : (s.finish r).guard = s.guard := rfl
@[simp] theorem State.finish_hd (r : CmdResult) : (s.finish r).hd = s.hd := rfl

/-! ### refuse -/

@[simp] theorem State.refuse_params : (s.refuse).params = s.params := rfl
@[simp] theorem State.refuse_host : (s.refuse).host = s.host := rfl
@[simp] theorem State.refuse_result : (s.refuse).result = some (.fault s.faultCode) := rfl
@[simp] theorem State.refuse_status : (s.refuse).status = s.status := rfl
@[simp] theorem State.refuse_faultCode : (s.refuse).faultCode = s.faultCode := rfl
@[simp] theorem State.refuse_faultPos : (s.refuse).faultPos = s.faultPos := rfl
@[simp] theorem State.refuse_warnLeftover : (s.refuse).warnLeftover = s.warnLeftover := rfl
@[simp] theorem State.refuse_out : (s.refuse).out = s.out := rfl
@[simp] theorem State.refuse_input : (s.refuse).input = s.input := rfl
@[simp] theorem State.refuse_engine : (s.refuse).engine = s.engine := rfl
@[simp] theorem State.refuse_ip : (s.refuse).ip = s.ip := rfl
@[simp] theorem State.refuse_lz : (s.refuse).lz = s.lz := rfl
@[simp] theorem State.refuse_huffValid : (s.refuse).huffValid = s.huffValid := rfl
@[simp] theorem State.refuse_cacheTable : (s.refuse).cacheTable = s.cacheTable := rfl
@[simp] theorem State.refuse_baseTable : (s.refuse).baseTable = s.baseTable := rfl
@[simp] theorem State.refuse_dicts : (s.refuse).dicts = s.dicts := rfl
@[simp] theorem State.refuse_codeLength : (s.refuse).codeLength = s.codeLength := rfl
@[simp] theorem State.refuse_clValid : (s.refuse).clValid = s.clValid := rfl
@[simp] theorem State.refuse_frames : (s.refuse).frames = s.frames := rfl
@[simp] theorem State.refuse_guard : (s.refuse).guard = s.guard := rfl
@[simp] theorem State.refuse_hd : (s.refuse).hd = s.hd := rfl

/-! ### pushFrame -/

@[simp] theorem State.pushFrame_params (g : U32) (d base n : Nat) : (s.pushFrame g d base n).params = s.params := rfl
@[simp] theorem State.pushFrame_host (g : U32) (d base n : Nat) : (s.pushFrame g d base n).host = s.host := rfl
@[simp] theorem State.pushFrame_result (g : U32) (d base n : Nat) : (s.pushFrame g d base n).result = s.result := rfl
@[simp] theorem State.pushFrame_status (g : U32) (d base n : Nat) : (s.pushFrame g d base n).status = s.status := rfl
@[simp] theorem State.pushFrame_faultCode (g : U32) (d base n : Nat) : (s.pushFrame g d base n).faultCode = s.faultCode := rfl
@[simp] theorem State.pushFrame_faultPos (g : U32) (d base n : Nat) : (s.pushFrame g d base n).faultPos = s.faultPos := rfl
@[simp] theorem State.pushFrame_warnLeftover (g : U32) (d base n : Nat) : (s.pushFrame g d base n).warnLeftover = s.warnLeftover := rfl
@[simp] theorem State.pushFrame_out (g : U32) (d base n : Nat) : (s.pushFrame g d base n).out = s.out := rfl
@[simp] theorem State.pushFrame_input (g : U32) (d base n : Nat) : (s.pushFrame g d base n).input = s.input := rfl
@[simp] theorem State.pushFrame_engine (g : U32) (d base n : Nat) : (s.pushFrame g d base n).engine = .hdCode := rfl
@[simp] theorem State.pushFrame_ip (g : U32) (d base n : Nat) : (s.pushFrame g d base n).ip = s.ip := rfl
@[simp] theorem State.pushFrame_lz (g : U32) (d base n : Nat) : (s.pushFrame g d base n).lz = s.lz := rfl
@[simp] theorem State.pushFrame_huffValid (g : U32) (d base n : Nat) : (s.pushFrame g d base n).huffValid = s.huffValid := rfl
@[simp] theorem State.pushFrame_cacheTable (g : U32) (d base n : Nat) : (s.pushFrame g d base n).cacheTable = s.cacheTable := rfl
@[simp] theorem State.pushFrame_baseTable (g : U32) (d base n : Nat) : (s.pushFrame g d base n).baseTable = s.baseTable := rfl
@[simp] theorem State.pushFrame_dicts (g : U32) (d base n : Nat) : (s.pushFrame g d base n).dicts = s.dicts := rfl
@[simp] theorem State.pushFrame_codeLength (g : U32) (d base n : Nat) : (s.pushFrame g d base n).codeLength = s.codeLength := rfl
@[simp] theorem State.pushFrame_clValid (g : U32) (d base n : Nat) : (s.pushFrame g d base n).clValid = s.clValid := rfl
@[simp] theorem State.pushFrame_frames (g : U32) (d base n : Nat) : (s.pushFrame g d base n).frames = ⟨.dict d, base, n, 0, some g⟩ :: s.frames := rfl
@[simp] theorem State.pushFrame_guard (g : U32) (d base n : Nat) : (s.pushFrame g d base n).guard = g :: s.guard := rfl
@[simp] theorem State.pushFrame_hd (g : U32) (d base n : Nat) : (s.pushFrame g d base n).hd = s.hd := rfl

/-! ### latchControl -/

@[simp] theorem State.latchControl_params (c : Byte) : (s.latchControl c).params = s.params := rfl
@[simp] theorem State.latchControl_host (c : Byte) : (s.latchControl c).host = s.host := rfl
@[simp] theorem State.latchControl_result (c : Byte) : (s.latchControl c).result = s.result := rfl
@[simp] theorem State.latchControl_status (c : Byte) : (s.latchControl c).status = s.status := rfl
@[simp] theorem State.latchControl_faultCode (c : Byte) : (s.latchControl c).faultCode = s.faultCode := rfl
@[simp] theorem State.latchControl_faultPos (c : Byte) : (s.latchControl c).faultPos = s.faultPos := rfl
@[simp] theorem State.latchControl_warnLeftover (c : Byte) : (s.latchControl c).warnLeftover = s.warnLeftover := rfl
@[simp] theorem State.latchControl_out (c : Byte) : (s.latchControl c).out = s.out := rfl
@[simp] theorem State.latchControl_input (c : Byte) : (s.latchControl c).input = s.input := rfl
@[simp] theorem State.latchControl_engine (c : Byte) : (s.latchControl c).engine = s.engine := rfl
@[simp] theorem State.latchControl_ip (c : Byte) : (s.latchControl c).ip = s.ip := rfl
@[simp] theorem State.latchControl_lz (c : Byte) : (s.latchControl c).lz = { s.lz with c := c } := rfl
@[simp] theorem State.latchControl_huffValid (c : Byte) : (s.latchControl c).huffValid = s.huffValid := rfl
@[simp] theorem State.latchControl_cacheTable (c : Byte) : (s.latchControl c).cacheTable = s.cacheTable := rfl
@[simp] theorem State.latchControl_baseTable (c : Byte) : (s.latchControl c).baseTable = s.baseTable := rfl
@[simp] theorem State.latchControl_dicts (c : Byte) : (s.latchControl c).dicts = s.dicts := rfl
@[simp] theorem State.latchControl_codeLength (c : Byte) : (s.latchControl c).codeLength = s.codeLength := rfl
@[simp] theorem State.latchControl_clValid (c : Byte) : (s.latchControl c).clValid = s.clValid := rfl
@[simp] theorem State.latchControl_frames (c : Byte) : (s.latchControl c).frames = s.frames := rfl
@[simp] theorem State.latchControl_guard (c : Byte) : (s.latchControl c).guard = s.guard := rfl
@[simp] theorem State.latchControl_hd (c : Byte) : (s.latchControl c).hd = s.hd := rfl

/-! ### latchBref -/

@[simp] theorem State.latchBref_params (v : U16) : (s.latchBref v).params = s.params := rfl
@[simp] theorem State.latchBref_host (v : U16) : (s.latchBref v).host = s.host := rfl
@[simp] theorem State.latchBref_result (v : U16) : (s.latchBref v).result = s.result := rfl
@[simp] theorem State.latchBref_status (v : U16) : (s.latchBref v).status = s.status := rfl
@[simp] theorem State.latchBref_faultCode (v : U16) : (s.latchBref v).faultCode = s.faultCode := rfl
@[simp] theorem State.latchBref_faultPos (v : U16) : (s.latchBref v).faultPos = s.faultPos := rfl
@[simp] theorem State.latchBref_warnLeftover (v : U16) : (s.latchBref v).warnLeftover = s.warnLeftover := rfl
@[simp] theorem State.latchBref_out (v : U16) : (s.latchBref v).out = s.out := rfl
@[simp] theorem State.latchBref_input (v : U16) : (s.latchBref v).input = s.input := rfl
@[simp] theorem State.latchBref_engine (v : U16) : (s.latchBref v).engine = s.engine := rfl
@[simp] theorem State.latchBref_ip (v : U16) : (s.latchBref v).ip = s.ip := rfl
@[simp] theorem State.latchBref_lz (v : U16) : (s.latchBref v).lz = { s.lz with v := v, dist := brefDist v, len := (brefLenField v).setWidth 4 + 3#4 } := rfl
@[simp] theorem State.latchBref_huffValid (v : U16) : (s.latchBref v).huffValid = s.huffValid := rfl
@[simp] theorem State.latchBref_cacheTable (v : U16) : (s.latchBref v).cacheTable = s.cacheTable := rfl
@[simp] theorem State.latchBref_baseTable (v : U16) : (s.latchBref v).baseTable = s.baseTable := rfl
@[simp] theorem State.latchBref_dicts (v : U16) : (s.latchBref v).dicts = s.dicts := rfl
@[simp] theorem State.latchBref_codeLength (v : U16) : (s.latchBref v).codeLength = s.codeLength := rfl
@[simp] theorem State.latchBref_clValid (v : U16) : (s.latchBref v).clValid = s.clValid := rfl
@[simp] theorem State.latchBref_frames (v : U16) : (s.latchBref v).frames = s.frames := rfl
@[simp] theorem State.latchBref_guard (v : U16) : (s.latchBref v).guard = s.guard := rfl
@[simp] theorem State.latchBref_hd (v : U16) : (s.latchBref v).hd = s.hd := rfl

/-! ### latchWindow -/

@[simp] theorem State.latchWindow_params (w v : U32) (p : Nat) : (s.latchWindow w v p).params = s.params := rfl
@[simp] theorem State.latchWindow_host (w v : U32) (p : Nat) : (s.latchWindow w v p).host = s.host := rfl
@[simp] theorem State.latchWindow_result (w v : U32) (p : Nat) : (s.latchWindow w v p).result = s.result := rfl
@[simp] theorem State.latchWindow_status (w v : U32) (p : Nat) : (s.latchWindow w v p).status = s.status := rfl
@[simp] theorem State.latchWindow_faultCode (w v : U32) (p : Nat) : (s.latchWindow w v p).faultCode = s.faultCode := rfl
@[simp] theorem State.latchWindow_faultPos (w v : U32) (p : Nat) : (s.latchWindow w v p).faultPos = s.faultPos := rfl
@[simp] theorem State.latchWindow_warnLeftover (w v : U32) (p : Nat) : (s.latchWindow w v p).warnLeftover = s.warnLeftover := rfl
@[simp] theorem State.latchWindow_out (w v : U32) (p : Nat) : (s.latchWindow w v p).out = s.out := rfl
@[simp] theorem State.latchWindow_input (w v : U32) (p : Nat) : (s.latchWindow w v p).input = s.input := rfl
@[simp] theorem State.latchWindow_engine (w v : U32) (p : Nat) : (s.latchWindow w v p).engine = s.engine := rfl
@[simp] theorem State.latchWindow_ip (w v : U32) (p : Nat) : (s.latchWindow w v p).ip = s.ip := rfl
@[simp] theorem State.latchWindow_lz (w v : U32) (p : Nat) : (s.latchWindow w v p).lz = s.lz := rfl
@[simp] theorem State.latchWindow_huffValid (w v : U32) (p : Nat) : (s.latchWindow w v p).huffValid = s.huffValid := rfl
@[simp] theorem State.latchWindow_cacheTable (w v : U32) (p : Nat) : (s.latchWindow w v p).cacheTable = s.cacheTable := rfl
@[simp] theorem State.latchWindow_baseTable (w v : U32) (p : Nat) : (s.latchWindow w v p).baseTable = s.baseTable := rfl
@[simp] theorem State.latchWindow_dicts (w v : U32) (p : Nat) : (s.latchWindow w v p).dicts = s.dicts := rfl
@[simp] theorem State.latchWindow_codeLength (w v : U32) (p : Nat) : (s.latchWindow w v p).codeLength = s.codeLength := rfl
@[simp] theorem State.latchWindow_clValid (w v : U32) (p : Nat) : (s.latchWindow w v p).clValid = s.clValid := rfl
@[simp] theorem State.latchWindow_frames (w v : U32) (p : Nat) : (s.latchWindow w v p).frames = s.frames := rfl
@[simp] theorem State.latchWindow_guard (w v : U32) (p : Nat) : (s.latchWindow w v p).guard = s.guard := rfl
@[simp] theorem State.latchWindow_hd (w v : U32) (p : Nat) : (s.latchWindow w v p).hd = { s.hd with w := w, v := v, start := p } := rfl

/-! ### latchCode -/

@[simp] theorem State.latchCode_params (L : Nat) (code : U32) (p : Nat) : (s.latchCode L code p).params = s.params := rfl
@[simp] theorem State.latchCode_host (L : Nat) (code : U32) (p : Nat) : (s.latchCode L code p).host = s.host := rfl
@[simp] theorem State.latchCode_result (L : Nat) (code : U32) (p : Nat) : (s.latchCode L code p).result = s.result := rfl
@[simp] theorem State.latchCode_status (L : Nat) (code : U32) (p : Nat) : (s.latchCode L code p).status = s.status := rfl
@[simp] theorem State.latchCode_faultCode (L : Nat) (code : U32) (p : Nat) : (s.latchCode L code p).faultCode = s.faultCode := rfl
@[simp] theorem State.latchCode_faultPos (L : Nat) (code : U32) (p : Nat) : (s.latchCode L code p).faultPos = s.faultPos := rfl
@[simp] theorem State.latchCode_warnLeftover (L : Nat) (code : U32) (p : Nat) : (s.latchCode L code p).warnLeftover = s.warnLeftover := rfl
@[simp] theorem State.latchCode_out (L : Nat) (code : U32) (p : Nat) : (s.latchCode L code p).out = s.out := rfl
@[simp] theorem State.latchCode_input (L : Nat) (code : U32) (p : Nat) : (s.latchCode L code p).input = s.input := rfl
@[simp] theorem State.latchCode_engine (L : Nat) (code : U32) (p : Nat) : (s.latchCode L code p).engine = s.engine := rfl
@[simp] theorem State.latchCode_ip (L : Nat) (code : U32) (p : Nat) : (s.latchCode L code p).ip = s.ip := rfl
@[simp] theorem State.latchCode_lz (L : Nat) (code : U32) (p : Nat) : (s.latchCode L code p).lz = s.lz := rfl
@[simp] theorem State.latchCode_huffValid (L : Nat) (code : U32) (p : Nat) : (s.latchCode L code p).huffValid = s.huffValid := rfl
@[simp] theorem State.latchCode_cacheTable (L : Nat) (code : U32) (p : Nat) : (s.latchCode L code p).cacheTable = s.cacheTable := rfl
@[simp] theorem State.latchCode_baseTable (L : Nat) (code : U32) (p : Nat) : (s.latchCode L code p).baseTable = s.baseTable := rfl
@[simp] theorem State.latchCode_dicts (L : Nat) (code : U32) (p : Nat) : (s.latchCode L code p).dicts = s.dicts := rfl
@[simp] theorem State.latchCode_codeLength (L : Nat) (code : U32) (p : Nat) : (s.latchCode L code p).codeLength = s.codeLength := rfl
@[simp] theorem State.latchCode_clValid (L : Nat) (code : U32) (p : Nat) : (s.latchCode L code p).clValid = s.clValid := rfl
@[simp] theorem State.latchCode_frames (L : Nat) (code : U32) (p : Nat) : (s.latchCode L code p).frames = s.frames := rfl
@[simp] theorem State.latchCode_guard (L : Nat) (code : U32) (p : Nat) : (s.latchCode L code p).guard = s.guard := rfl
@[simp] theorem State.latchCode_hd (L : Nat) (code : U32) (p : Nat) : (s.latchCode L code p).hd = { s.hd with codeLen := L, code := code, start := p } := rfl

/-! ### latchSplit -/

@[simp] theorem State.latchSplit_params (d k : Nat) : (s.latchSplit d k).params = s.params := rfl
@[simp] theorem State.latchSplit_host (d k : Nat) : (s.latchSplit d k).host = s.host := rfl
@[simp] theorem State.latchSplit_result (d k : Nat) : (s.latchSplit d k).result = s.result := rfl
@[simp] theorem State.latchSplit_status (d k : Nat) : (s.latchSplit d k).status = s.status := rfl
@[simp] theorem State.latchSplit_faultCode (d k : Nat) : (s.latchSplit d k).faultCode = s.faultCode := rfl
@[simp] theorem State.latchSplit_faultPos (d k : Nat) : (s.latchSplit d k).faultPos = s.faultPos := rfl
@[simp] theorem State.latchSplit_warnLeftover (d k : Nat) : (s.latchSplit d k).warnLeftover = s.warnLeftover := rfl
@[simp] theorem State.latchSplit_out (d k : Nat) : (s.latchSplit d k).out = s.out := rfl
@[simp] theorem State.latchSplit_input (d k : Nat) : (s.latchSplit d k).input = s.input := rfl
@[simp] theorem State.latchSplit_engine (d k : Nat) : (s.latchSplit d k).engine = s.engine := rfl
@[simp] theorem State.latchSplit_ip (d k : Nat) : (s.latchSplit d k).ip = s.ip := rfl
@[simp] theorem State.latchSplit_lz (d k : Nat) : (s.latchSplit d k).lz = s.lz := rfl
@[simp] theorem State.latchSplit_huffValid (d k : Nat) : (s.latchSplit d k).huffValid = s.huffValid := rfl
@[simp] theorem State.latchSplit_cacheTable (d k : Nat) : (s.latchSplit d k).cacheTable = s.cacheTable := rfl
@[simp] theorem State.latchSplit_baseTable (d k : Nat) : (s.latchSplit d k).baseTable = s.baseTable := rfl
@[simp] theorem State.latchSplit_dicts (d k : Nat) : (s.latchSplit d k).dicts = s.dicts := rfl
@[simp] theorem State.latchSplit_codeLength (d k : Nat) : (s.latchSplit d k).codeLength = s.codeLength := rfl
@[simp] theorem State.latchSplit_clValid (d k : Nat) : (s.latchSplit d k).clValid = s.clValid := rfl
@[simp] theorem State.latchSplit_frames (d k : Nat) : (s.latchSplit d k).frames = s.frames := rfl
@[simp] theorem State.latchSplit_guard (d k : Nat) : (s.latchSplit d k).guard = s.guard := rfl
@[simp] theorem State.latchSplit_hd (d k : Nat) : (s.latchSplit d k).hd = { s.hd with dict := d, key := k } := rfl

/-! ### latchOff -/

@[simp] theorem State.latchOff_params (off : U16) : (s.latchOff off).params = s.params := rfl
@[simp] theorem State.latchOff_host (off : U16) : (s.latchOff off).host = s.host := rfl
@[simp] theorem State.latchOff_result (off : U16) : (s.latchOff off).result = s.result := rfl
@[simp] theorem State.latchOff_status (off : U16) : (s.latchOff off).status = s.status := rfl
@[simp] theorem State.latchOff_faultCode (off : U16) : (s.latchOff off).faultCode = s.faultCode := rfl
@[simp] theorem State.latchOff_faultPos (off : U16) : (s.latchOff off).faultPos = s.faultPos := rfl
@[simp] theorem State.latchOff_warnLeftover (off : U16) : (s.latchOff off).warnLeftover = s.warnLeftover := rfl
@[simp] theorem State.latchOff_out (off : U16) : (s.latchOff off).out = s.out := rfl
@[simp] theorem State.latchOff_input (off : U16) : (s.latchOff off).input = s.input := rfl
@[simp] theorem State.latchOff_engine (off : U16) : (s.latchOff off).engine = s.engine := rfl
@[simp] theorem State.latchOff_ip (off : U16) : (s.latchOff off).ip = s.ip := rfl
@[simp] theorem State.latchOff_lz (off : U16) : (s.latchOff off).lz = s.lz := rfl
@[simp] theorem State.latchOff_huffValid (off : U16) : (s.latchOff off).huffValid = s.huffValid := rfl
@[simp] theorem State.latchOff_cacheTable (off : U16) : (s.latchOff off).cacheTable = s.cacheTable := rfl
@[simp] theorem State.latchOff_baseTable (off : U16) : (s.latchOff off).baseTable = s.baseTable := rfl
@[simp] theorem State.latchOff_dicts (off : U16) : (s.latchOff off).dicts = s.dicts := rfl
@[simp] theorem State.latchOff_codeLength (off : U16) : (s.latchOff off).codeLength = s.codeLength := rfl
@[simp] theorem State.latchOff_clValid (off : U16) : (s.latchOff off).clValid = s.clValid := rfl
@[simp] theorem State.latchOff_frames (off : U16) : (s.latchOff off).frames = s.frames := rfl
@[simp] theorem State.latchOff_guard (off : U16) : (s.latchOff off).guard = s.guard := rfl
@[simp] theorem State.latchOff_hd (off : U16) : (s.latchOff off).hd = { s.hd with off := off } := rfl

/-! ### latchSymLen -/

@[simp] theorem State.latchSymLen_params (h : U16) : (s.latchSymLen h).params = s.params := rfl
@[simp] theorem State.latchSymLen_host (h : U16) : (s.latchSymLen h).host = s.host := rfl
@[simp] theorem State.latchSymLen_result (h : U16) : (s.latchSymLen h).result = s.result := rfl
@[simp] theorem State.latchSymLen_status (h : U16) : (s.latchSymLen h).status = s.status := rfl
@[simp] theorem State.latchSymLen_faultCode (h : U16) : (s.latchSymLen h).faultCode = s.faultCode := rfl
@[simp] theorem State.latchSymLen_faultPos (h : U16) : (s.latchSymLen h).faultPos = s.faultPos := rfl
@[simp] theorem State.latchSymLen_warnLeftover (h : U16) : (s.latchSymLen h).warnLeftover = s.warnLeftover := rfl
@[simp] theorem State.latchSymLen_out (h : U16) : (s.latchSymLen h).out = s.out := rfl
@[simp] theorem State.latchSymLen_input (h : U16) : (s.latchSymLen h).input = s.input := rfl
@[simp] theorem State.latchSymLen_engine (h : U16) : (s.latchSymLen h).engine = s.engine := rfl
@[simp] theorem State.latchSymLen_ip (h : U16) : (s.latchSymLen h).ip = s.ip := rfl
@[simp] theorem State.latchSymLen_lz (h : U16) : (s.latchSymLen h).lz = s.lz := rfl
@[simp] theorem State.latchSymLen_huffValid (h : U16) : (s.latchSymLen h).huffValid = s.huffValid := rfl
@[simp] theorem State.latchSymLen_cacheTable (h : U16) : (s.latchSymLen h).cacheTable = s.cacheTable := rfl
@[simp] theorem State.latchSymLen_baseTable (h : U16) : (s.latchSymLen h).baseTable = s.baseTable := rfl
@[simp] theorem State.latchSymLen_dicts (h : U16) : (s.latchSymLen h).dicts = s.dicts := rfl
@[simp] theorem State.latchSymLen_codeLength (h : U16) : (s.latchSymLen h).codeLength = s.codeLength := rfl
@[simp] theorem State.latchSymLen_clValid (h : U16) : (s.latchSymLen h).clValid = s.clValid := rfl
@[simp] theorem State.latchSymLen_frames (h : U16) : (s.latchSymLen h).frames = s.frames := rfl
@[simp] theorem State.latchSymLen_guard (h : U16) : (s.latchSymLen h).guard = s.guard := rfl
@[simp] theorem State.latchSymLen_hd (h : U16) : (s.latchSymLen h).hd = { s.hd with symLen := h, len := entryLen h } := rfl

/-! ### clearWarn -/

@[simp] theorem State.clearWarn_params : (s.clearWarn).params = s.params := rfl
@[simp] theorem State.clearWarn_host : (s.clearWarn).host = s.host := rfl
@[simp] theorem State.clearWarn_result : (s.clearWarn).result = s.result := rfl
@[simp] theorem State.clearWarn_status : (s.clearWarn).status = s.status := rfl
@[simp] theorem State.clearWarn_faultCode : (s.clearWarn).faultCode = s.faultCode := rfl
@[simp] theorem State.clearWarn_faultPos : (s.clearWarn).faultPos = s.faultPos := rfl
@[simp] theorem State.clearWarn_warnLeftover : (s.clearWarn).warnLeftover = false := rfl
@[simp] theorem State.clearWarn_out : (s.clearWarn).out = s.out := rfl
@[simp] theorem State.clearWarn_input : (s.clearWarn).input = s.input := rfl
@[simp] theorem State.clearWarn_engine : (s.clearWarn).engine = s.engine := rfl
@[simp] theorem State.clearWarn_ip : (s.clearWarn).ip = s.ip := rfl
@[simp] theorem State.clearWarn_lz : (s.clearWarn).lz = s.lz := rfl
@[simp] theorem State.clearWarn_huffValid : (s.clearWarn).huffValid = s.huffValid := rfl
@[simp] theorem State.clearWarn_cacheTable : (s.clearWarn).cacheTable = s.cacheTable := rfl
@[simp] theorem State.clearWarn_baseTable : (s.clearWarn).baseTable = s.baseTable := rfl
@[simp] theorem State.clearWarn_dicts : (s.clearWarn).dicts = s.dicts := rfl
@[simp] theorem State.clearWarn_codeLength : (s.clearWarn).codeLength = s.codeLength := rfl
@[simp] theorem State.clearWarn_clValid : (s.clearWarn).clValid = s.clValid := rfl
@[simp] theorem State.clearWarn_frames : (s.clearWarn).frames = s.frames := rfl
@[simp] theorem State.clearWarn_guard : (s.clearWarn).guard = s.guard := rfl
@[simp] theorem State.clearWarn_hd : (s.clearWarn).hd = s.hd := rfl

/-! ### setWarn -/

@[simp] theorem State.setWarn_params : (s.setWarn).params = s.params := rfl
@[simp] theorem State.setWarn_host : (s.setWarn).host = s.host := rfl
@[simp] theorem State.setWarn_result : (s.setWarn).result = s.result := rfl
@[simp] theorem State.setWarn_status : (s.setWarn).status = s.status := rfl
@[simp] theorem State.setWarn_faultCode : (s.setWarn).faultCode = s.faultCode := rfl
@[simp] theorem State.setWarn_faultPos : (s.setWarn).faultPos = s.faultPos := rfl
@[simp] theorem State.setWarn_warnLeftover : (s.setWarn).warnLeftover = true := rfl
@[simp] theorem State.setWarn_out : (s.setWarn).out = s.out := rfl
@[simp] theorem State.setWarn_input : (s.setWarn).input = s.input := rfl
@[simp] theorem State.setWarn_engine : (s.setWarn).engine = s.engine := rfl
@[simp] theorem State.setWarn_ip : (s.setWarn).ip = s.ip := rfl
@[simp] theorem State.setWarn_lz : (s.setWarn).lz = s.lz := rfl
@[simp] theorem State.setWarn_huffValid : (s.setWarn).huffValid = s.huffValid := rfl
@[simp] theorem State.setWarn_cacheTable : (s.setWarn).cacheTable = s.cacheTable := rfl
@[simp] theorem State.setWarn_baseTable : (s.setWarn).baseTable = s.baseTable := rfl
@[simp] theorem State.setWarn_dicts : (s.setWarn).dicts = s.dicts := rfl
@[simp] theorem State.setWarn_codeLength : (s.setWarn).codeLength = s.codeLength := rfl
@[simp] theorem State.setWarn_clValid : (s.setWarn).clValid = s.clValid := rfl
@[simp] theorem State.setWarn_frames : (s.setWarn).frames = s.frames := rfl
@[simp] theorem State.setWarn_guard : (s.setWarn).guard = s.guard := rfl
@[simp] theorem State.setWarn_hd : (s.setWarn).hd = s.hd := rfl

/-! ### loadTables -/

@[simp] theorem State.loadTables_params (c : Vector U32 256) (b : Vector U32 64) : (s.loadTables c b).params = s.params := rfl
@[simp] theorem State.loadTables_host (c : Vector U32 256) (b : Vector U32 64) : (s.loadTables c b).host = s.host := rfl
@[simp] theorem State.loadTables_result (c : Vector U32 256) (b : Vector U32 64) : (s.loadTables c b).result = s.result := rfl
@[simp] theorem State.loadTables_status (c : Vector U32 256) (b : Vector U32 64) : (s.loadTables c b).status = s.status := rfl
@[simp] theorem State.loadTables_faultCode (c : Vector U32 256) (b : Vector U32 64) : (s.loadTables c b).faultCode = s.faultCode := rfl
@[simp] theorem State.loadTables_faultPos (c : Vector U32 256) (b : Vector U32 64) : (s.loadTables c b).faultPos = s.faultPos := rfl
@[simp] theorem State.loadTables_warnLeftover (c : Vector U32 256) (b : Vector U32 64) : (s.loadTables c b).warnLeftover = s.warnLeftover := rfl
@[simp] theorem State.loadTables_out (c : Vector U32 256) (b : Vector U32 64) : (s.loadTables c b).out = s.out := rfl
@[simp] theorem State.loadTables_input (c : Vector U32 256) (b : Vector U32 64) : (s.loadTables c b).input = s.input := rfl
@[simp] theorem State.loadTables_engine (c : Vector U32 256) (b : Vector U32 64) : (s.loadTables c b).engine = s.engine := rfl
@[simp] theorem State.loadTables_ip (c : Vector U32 256) (b : Vector U32 64) : (s.loadTables c b).ip = s.ip := rfl
@[simp] theorem State.loadTables_lz (c : Vector U32 256) (b : Vector U32 64) : (s.loadTables c b).lz = s.lz := rfl
@[simp] theorem State.loadTables_huffValid (c : Vector U32 256) (b : Vector U32 64) : (s.loadTables c b).huffValid = true := rfl
@[simp] theorem State.loadTables_cacheTable (c : Vector U32 256) (b : Vector U32 64) : (s.loadTables c b).cacheTable = c := rfl
@[simp] theorem State.loadTables_baseTable (c : Vector U32 256) (b : Vector U32 64) : (s.loadTables c b).baseTable = b := rfl
@[simp] theorem State.loadTables_dicts (c : Vector U32 256) (b : Vector U32 64) : (s.loadTables c b).dicts = s.dicts := rfl
@[simp] theorem State.loadTables_codeLength (c : Vector U32 256) (b : Vector U32 64) : (s.loadTables c b).codeLength = s.codeLength := rfl
@[simp] theorem State.loadTables_clValid (c : Vector U32 256) (b : Vector U32 64) : (s.loadTables c b).clValid = s.clValid := rfl
@[simp] theorem State.loadTables_frames (c : Vector U32 256) (b : Vector U32 64) : (s.loadTables c b).frames = s.frames := rfl
@[simp] theorem State.loadTables_guard (c : Vector U32 256) (b : Vector U32 64) : (s.loadTables c b).guard = s.guard := rfl
@[simp] theorem State.loadTables_hd (c : Vector U32 256) (b : Vector U32 64) : (s.loadTables c b).hd = s.hd := rfl

/-! ### addDict -/

@[simp] theorem State.addDict_params (blob : Bytes) (cl : U32) : (s.addDict blob cl).params = s.params := rfl
@[simp] theorem State.addDict_host (blob : Bytes) (cl : U32) : (s.addDict blob cl).host = s.host := rfl
@[simp] theorem State.addDict_result (blob : Bytes) (cl : U32) : (s.addDict blob cl).result = s.result := rfl
@[simp] theorem State.addDict_status (blob : Bytes) (cl : U32) : (s.addDict blob cl).status = s.status := rfl
@[simp] theorem State.addDict_faultCode (blob : Bytes) (cl : U32) : (s.addDict blob cl).faultCode = s.faultCode := rfl
@[simp] theorem State.addDict_faultPos (blob : Bytes) (cl : U32) : (s.addDict blob cl).faultPos = s.faultPos := rfl
@[simp] theorem State.addDict_warnLeftover (blob : Bytes) (cl : U32) : (s.addDict blob cl).warnLeftover = s.warnLeftover := rfl
@[simp] theorem State.addDict_out (blob : Bytes) (cl : U32) : (s.addDict blob cl).out = s.out := rfl
@[simp] theorem State.addDict_input (blob : Bytes) (cl : U32) : (s.addDict blob cl).input = s.input := rfl
@[simp] theorem State.addDict_engine (blob : Bytes) (cl : U32) : (s.addDict blob cl).engine = s.engine := rfl
@[simp] theorem State.addDict_ip (blob : Bytes) (cl : U32) : (s.addDict blob cl).ip = s.ip := rfl
@[simp] theorem State.addDict_lz (blob : Bytes) (cl : U32) : (s.addDict blob cl).lz = s.lz := rfl
@[simp] theorem State.addDict_huffValid (blob : Bytes) (cl : U32) : (s.addDict blob cl).huffValid = s.huffValid := rfl
@[simp] theorem State.addDict_cacheTable (blob : Bytes) (cl : U32) : (s.addDict blob cl).cacheTable = s.cacheTable := rfl
@[simp] theorem State.addDict_baseTable (blob : Bytes) (cl : U32) : (s.addDict blob cl).baseTable = s.baseTable := rfl
@[simp] theorem State.addDict_dicts (blob : Bytes) (cl : U32) : (s.addDict blob cl).dicts = s.dicts ++ [blob] := rfl
@[simp] theorem State.addDict_codeLength (blob : Bytes) (cl : U32) : (s.addDict blob cl).codeLength = cl := rfl
@[simp] theorem State.addDict_clValid (blob : Bytes) (cl : U32) : (s.addDict blob cl).clValid = true := rfl
@[simp] theorem State.addDict_frames (blob : Bytes) (cl : U32) : (s.addDict blob cl).frames = s.frames := rfl
@[simp] theorem State.addDict_guard (blob : Bytes) (cl : U32) : (s.addDict blob cl).guard = s.guard := rfl
@[simp] theorem State.addDict_hd (blob : Bytes) (cl : U32) : (s.addDict blob cl).hd = s.hd := rfl

/-! ### begin -/

@[simp] theorem State.begin_params : (s.begin).params = s.params := rfl
@[simp] theorem State.begin_host : (s.begin).host = s.host := rfl
@[simp] theorem State.begin_result : (s.begin).result = s.result := rfl
@[simp] theorem State.begin_status : (s.begin).status = .busy := rfl
@[simp] theorem State.begin_faultCode : (s.begin).faultCode = s.faultCode := rfl
@[simp] theorem State.begin_faultPos : (s.begin).faultPos = s.faultPos := rfl
@[simp] theorem State.begin_warnLeftover : (s.begin).warnLeftover = s.warnLeftover := rfl
@[simp] theorem State.begin_out : (s.begin).out = s.out := rfl
@[simp] theorem State.begin_input : (s.begin).input = s.input := rfl
@[simp] theorem State.begin_engine : (s.begin).engine = s.engine := rfl
@[simp] theorem State.begin_ip : (s.begin).ip = s.ip := rfl
@[simp] theorem State.begin_lz : (s.begin).lz = s.lz := rfl
@[simp] theorem State.begin_huffValid : (s.begin).huffValid = s.huffValid := rfl
@[simp] theorem State.begin_cacheTable : (s.begin).cacheTable = s.cacheTable := rfl
@[simp] theorem State.begin_baseTable : (s.begin).baseTable = s.baseTable := rfl
@[simp] theorem State.begin_dicts : (s.begin).dicts = s.dicts := rfl
@[simp] theorem State.begin_codeLength : (s.begin).codeLength = s.codeLength := rfl
@[simp] theorem State.begin_clValid : (s.begin).clValid = s.clValid := rfl
@[simp] theorem State.begin_frames : (s.begin).frames = s.frames := rfl
@[simp] theorem State.begin_guard : (s.begin).guard = s.guard := rfl
@[simp] theorem State.begin_hd : (s.begin).hd = s.hd := rfl

/-! ### setOut -/

@[simp] theorem State.setOut_params (out : Memory) : (s.setOut out).params = s.params := rfl
@[simp] theorem State.setOut_host (out : Memory) : (s.setOut out).host = s.host := rfl
@[simp] theorem State.setOut_result (out : Memory) : (s.setOut out).result = s.result := rfl
@[simp] theorem State.setOut_status (out : Memory) : (s.setOut out).status = s.status := rfl
@[simp] theorem State.setOut_faultCode (out : Memory) : (s.setOut out).faultCode = s.faultCode := rfl
@[simp] theorem State.setOut_faultPos (out : Memory) : (s.setOut out).faultPos = s.faultPos := rfl
@[simp] theorem State.setOut_warnLeftover (out : Memory) : (s.setOut out).warnLeftover = s.warnLeftover := rfl
@[simp] theorem State.setOut_out (out : Memory) : (s.setOut out).out = out := rfl
@[simp] theorem State.setOut_input (out : Memory) : (s.setOut out).input = s.input := rfl
@[simp] theorem State.setOut_engine (out : Memory) : (s.setOut out).engine = s.engine := rfl
@[simp] theorem State.setOut_ip (out : Memory) : (s.setOut out).ip = s.ip := rfl
@[simp] theorem State.setOut_lz (out : Memory) : (s.setOut out).lz = s.lz := rfl
@[simp] theorem State.setOut_huffValid (out : Memory) : (s.setOut out).huffValid = s.huffValid := rfl
@[simp] theorem State.setOut_cacheTable (out : Memory) : (s.setOut out).cacheTable = s.cacheTable := rfl
@[simp] theorem State.setOut_baseTable (out : Memory) : (s.setOut out).baseTable = s.baseTable := rfl
@[simp] theorem State.setOut_dicts (out : Memory) : (s.setOut out).dicts = s.dicts := rfl
@[simp] theorem State.setOut_codeLength (out : Memory) : (s.setOut out).codeLength = s.codeLength := rfl
@[simp] theorem State.setOut_clValid (out : Memory) : (s.setOut out).clValid = s.clValid := rfl
@[simp] theorem State.setOut_frames (out : Memory) : (s.setOut out).frames = s.frames := rfl
@[simp] theorem State.setOut_guard (out : Memory) : (s.setOut out).guard = s.guard := rfl
@[simp] theorem State.setOut_hd (out : Memory) : (s.setOut out).hd = s.hd := rfl

/-! ### consume -/

@[simp] theorem State.consume_params (f : Frame) (rest : List Frame) (L : Nat) : (s.consume f rest L).params = s.params := rfl
@[simp] theorem State.consume_host (f : Frame) (rest : List Frame) (L : Nat) : (s.consume f rest L).host = s.host := rfl
@[simp] theorem State.consume_result (f : Frame) (rest : List Frame) (L : Nat) : (s.consume f rest L).result = s.result := rfl
@[simp] theorem State.consume_status (f : Frame) (rest : List Frame) (L : Nat) : (s.consume f rest L).status = s.status := rfl
@[simp] theorem State.consume_faultCode (f : Frame) (rest : List Frame) (L : Nat) : (s.consume f rest L).faultCode = s.faultCode := rfl
@[simp] theorem State.consume_faultPos (f : Frame) (rest : List Frame) (L : Nat) : (s.consume f rest L).faultPos = s.faultPos := rfl
@[simp] theorem State.consume_warnLeftover (f : Frame) (rest : List Frame) (L : Nat) : (s.consume f rest L).warnLeftover = s.warnLeftover := rfl
@[simp] theorem State.consume_out (f : Frame) (rest : List Frame) (L : Nat) : (s.consume f rest L).out = s.out := rfl
@[simp] theorem State.consume_input (f : Frame) (rest : List Frame) (L : Nat) : (s.consume f rest L).input = s.input := rfl
@[simp] theorem State.consume_engine (f : Frame) (rest : List Frame) (L : Nat) : (s.consume f rest L).engine = .hdEntry := rfl
@[simp] theorem State.consume_ip (f : Frame) (rest : List Frame) (L : Nat) : (s.consume f rest L).ip = s.ip := rfl
@[simp] theorem State.consume_lz (f : Frame) (rest : List Frame) (L : Nat) : (s.consume f rest L).lz = s.lz := rfl
@[simp] theorem State.consume_huffValid (f : Frame) (rest : List Frame) (L : Nat) : (s.consume f rest L).huffValid = s.huffValid := rfl
@[simp] theorem State.consume_cacheTable (f : Frame) (rest : List Frame) (L : Nat) : (s.consume f rest L).cacheTable = s.cacheTable := rfl
@[simp] theorem State.consume_baseTable (f : Frame) (rest : List Frame) (L : Nat) : (s.consume f rest L).baseTable = s.baseTable := rfl
@[simp] theorem State.consume_dicts (f : Frame) (rest : List Frame) (L : Nat) : (s.consume f rest L).dicts = s.dicts := rfl
@[simp] theorem State.consume_codeLength (f : Frame) (rest : List Frame) (L : Nat) : (s.consume f rest L).codeLength = s.codeLength := rfl
@[simp] theorem State.consume_clValid (f : Frame) (rest : List Frame) (L : Nat) : (s.consume f rest L).clValid = s.clValid := rfl
@[simp] theorem State.consume_frames (f : Frame) (rest : List Frame) (L : Nat) : (s.consume f rest L).frames = { f with bp := f.bp + L } :: rest := rfl
@[simp] theorem State.consume_guard (f : Frame) (rest : List Frame) (L : Nat) : (s.consume f rest L).guard = s.guard := rfl
@[simp] theorem State.consume_hd (f : Frame) (rest : List Frame) (L : Nat) : (s.consume f rest L).hd = s.hd := rfl

/-! ### resume -/

@[simp] theorem State.resume_params : (s.resume).params = s.params := rfl
@[simp] theorem State.resume_host : (s.resume).host = s.host := rfl
@[simp] theorem State.resume_result : (s.resume).result = s.result := rfl
@[simp] theorem State.resume_status : (s.resume).status = s.status := rfl
@[simp] theorem State.resume_faultCode : (s.resume).faultCode = s.faultCode := rfl
@[simp] theorem State.resume_faultPos : (s.resume).faultPos = s.faultPos := rfl
@[simp] theorem State.resume_warnLeftover : (s.resume).warnLeftover = s.warnLeftover := rfl
@[simp] theorem State.resume_out : (s.resume).out = s.out := rfl
@[simp] theorem State.resume_input : (s.resume).input = s.input := rfl
@[simp] theorem State.resume_engine : (s.resume).engine = .hdCode := rfl
@[simp] theorem State.resume_ip : (s.resume).ip = s.ip := rfl
@[simp] theorem State.resume_lz : (s.resume).lz = s.lz := rfl
@[simp] theorem State.resume_huffValid : (s.resume).huffValid = s.huffValid := rfl
@[simp] theorem State.resume_cacheTable : (s.resume).cacheTable = s.cacheTable := rfl
@[simp] theorem State.resume_baseTable : (s.resume).baseTable = s.baseTable := rfl
@[simp] theorem State.resume_dicts : (s.resume).dicts = s.dicts := rfl
@[simp] theorem State.resume_codeLength : (s.resume).codeLength = s.codeLength := rfl
@[simp] theorem State.resume_clValid : (s.resume).clValid = s.clValid := rfl
@[simp] theorem State.resume_frames : (s.resume).frames = s.frames := rfl
@[simp] theorem State.resume_guard : (s.resume).guard = s.guard := rfl
@[simp] theorem State.resume_hd : (s.resume).hd = s.hd := rfl

/-! ### takeCommand -/

@[simp] theorem State.takeCommand_params (cs : List HostCmd) : (s.takeCommand cs).params = s.params := rfl
@[simp] theorem State.takeCommand_host (cs : List HostCmd) : (s.takeCommand cs).host = cs := rfl
@[simp] theorem State.takeCommand_result (cs : List HostCmd) : (s.takeCommand cs).result = s.result := rfl
@[simp] theorem State.takeCommand_status (cs : List HostCmd) : (s.takeCommand cs).status = s.status := rfl
@[simp] theorem State.takeCommand_faultCode (cs : List HostCmd) : (s.takeCommand cs).faultCode = s.faultCode := rfl
@[simp] theorem State.takeCommand_faultPos (cs : List HostCmd) : (s.takeCommand cs).faultPos = s.faultPos := rfl
@[simp] theorem State.takeCommand_warnLeftover (cs : List HostCmd) : (s.takeCommand cs).warnLeftover = s.warnLeftover := rfl
@[simp] theorem State.takeCommand_out (cs : List HostCmd) : (s.takeCommand cs).out = s.out := rfl
@[simp] theorem State.takeCommand_input (cs : List HostCmd) : (s.takeCommand cs).input = s.input := rfl
@[simp] theorem State.takeCommand_engine (cs : List HostCmd) : (s.takeCommand cs).engine = s.engine := rfl
@[simp] theorem State.takeCommand_ip (cs : List HostCmd) : (s.takeCommand cs).ip = s.ip := rfl
@[simp] theorem State.takeCommand_lz (cs : List HostCmd) : (s.takeCommand cs).lz = s.lz := rfl
@[simp] theorem State.takeCommand_huffValid (cs : List HostCmd) : (s.takeCommand cs).huffValid = s.huffValid := rfl
@[simp] theorem State.takeCommand_cacheTable (cs : List HostCmd) : (s.takeCommand cs).cacheTable = s.cacheTable := rfl
@[simp] theorem State.takeCommand_baseTable (cs : List HostCmd) : (s.takeCommand cs).baseTable = s.baseTable := rfl
@[simp] theorem State.takeCommand_dicts (cs : List HostCmd) : (s.takeCommand cs).dicts = s.dicts := rfl
@[simp] theorem State.takeCommand_codeLength (cs : List HostCmd) : (s.takeCommand cs).codeLength = s.codeLength := rfl
@[simp] theorem State.takeCommand_clValid (cs : List HostCmd) : (s.takeCommand cs).clValid = s.clValid := rfl
@[simp] theorem State.takeCommand_frames (cs : List HostCmd) : (s.takeCommand cs).frames = s.frames := rfl
@[simp] theorem State.takeCommand_guard (cs : List HostCmd) : (s.takeCommand cs).guard = s.guard := rfl
@[simp] theorem State.takeCommand_hd (cs : List HostCmd) : (s.takeCommand cs).hd = s.hd := rfl

/-! ### startLz -/

@[simp] theorem State.startLz_params (p : Bytes) : (s.startLz p).params = s.params := rfl
@[simp] theorem State.startLz_host (p : Bytes) : (s.startLz p).host = s.host := rfl
@[simp] theorem State.startLz_result (p : Bytes) : (s.startLz p).result = s.result := rfl
@[simp] theorem State.startLz_status (p : Bytes) : (s.startLz p).status = s.status := rfl
@[simp] theorem State.startLz_faultCode (p : Bytes) : (s.startLz p).faultCode = s.faultCode := rfl
@[simp] theorem State.startLz_faultPos (p : Bytes) : (s.startLz p).faultPos = s.faultPos := rfl
@[simp] theorem State.startLz_warnLeftover (p : Bytes) : (s.startLz p).warnLeftover = s.warnLeftover := rfl
@[simp] theorem State.startLz_out (p : Bytes) : (s.startLz p).out = s.out := rfl
@[simp] theorem State.startLz_input (p : Bytes) : (s.startLz p).input = p := rfl
@[simp] theorem State.startLz_engine (p : Bytes) : (s.startLz p).engine = .lz := rfl
@[simp] theorem State.startLz_ip (p : Bytes) : (s.startLz p).ip = 0 := rfl
@[simp] theorem State.startLz_lz (p : Bytes) : (s.startLz p).lz = s.lz := rfl
@[simp] theorem State.startLz_huffValid (p : Bytes) : (s.startLz p).huffValid = s.huffValid := rfl
@[simp] theorem State.startLz_cacheTable (p : Bytes) : (s.startLz p).cacheTable = s.cacheTable := rfl
@[simp] theorem State.startLz_baseTable (p : Bytes) : (s.startLz p).baseTable = s.baseTable := rfl
@[simp] theorem State.startLz_dicts (p : Bytes) : (s.startLz p).dicts = s.dicts := rfl
@[simp] theorem State.startLz_codeLength (p : Bytes) : (s.startLz p).codeLength = s.codeLength := rfl
@[simp] theorem State.startLz_clValid (p : Bytes) : (s.startLz p).clValid = s.clValid := rfl
@[simp] theorem State.startLz_frames (p : Bytes) : (s.startLz p).frames = s.frames := rfl
@[simp] theorem State.startLz_guard (p : Bytes) : (s.startLz p).guard = s.guard := rfl
@[simp] theorem State.startLz_hd (p : Bytes) : (s.startLz p).hd = s.hd := rfl

/-! ### startHd -/

@[simp] theorem State.startHd_params (p : Bytes) : (s.startHd p).params = s.params := rfl
@[simp] theorem State.startHd_host (p : Bytes) : (s.startHd p).host = s.host := rfl
@[simp] theorem State.startHd_result (p : Bytes) : (s.startHd p).result = s.result := rfl
@[simp] theorem State.startHd_status (p : Bytes) : (s.startHd p).status = s.status := rfl
@[simp] theorem State.startHd_faultCode (p : Bytes) : (s.startHd p).faultCode = s.faultCode := rfl
@[simp] theorem State.startHd_faultPos (p : Bytes) : (s.startHd p).faultPos = s.faultPos := rfl
@[simp] theorem State.startHd_warnLeftover (p : Bytes) : (s.startHd p).warnLeftover = s.warnLeftover := rfl
@[simp] theorem State.startHd_out (p : Bytes) : (s.startHd p).out = s.out := rfl
@[simp] theorem State.startHd_input (p : Bytes) : (s.startHd p).input = p := rfl
@[simp] theorem State.startHd_engine (p : Bytes) : (s.startHd p).engine = .hdCode := rfl
@[simp] theorem State.startHd_ip (p : Bytes) : (s.startHd p).ip = s.ip := rfl
@[simp] theorem State.startHd_lz (p : Bytes) : (s.startHd p).lz = s.lz := rfl
@[simp] theorem State.startHd_huffValid (p : Bytes) : (s.startHd p).huffValid = s.huffValid := rfl
@[simp] theorem State.startHd_cacheTable (p : Bytes) : (s.startHd p).cacheTable = s.cacheTable := rfl
@[simp] theorem State.startHd_baseTable (p : Bytes) : (s.startHd p).baseTable = s.baseTable := rfl
@[simp] theorem State.startHd_dicts (p : Bytes) : (s.startHd p).dicts = s.dicts := rfl
@[simp] theorem State.startHd_codeLength (p : Bytes) : (s.startHd p).codeLength = s.codeLength := rfl
@[simp] theorem State.startHd_clValid (p : Bytes) : (s.startHd p).clValid = s.clValid := rfl
@[simp] theorem State.startHd_frames (p : Bytes) : (s.startHd p).frames = [outerFrame p] := rfl
@[simp] theorem State.startHd_guard (p : Bytes) : (s.startHd p).guard = [] := rfl
@[simp] theorem State.startHd_hd (p : Bytes) : (s.startHd p).hd = s.hd := rfl

end Sys2Proof.Machine
end

