-- ==== Sys2Proof/Laws/Ops.lean ====
section
/-! SUPPORT. What each shared operation can do, said once: reads, appends, command entry, frames and guard. -/

namespace Sys2Proof.Machine

open Sys2Proof

/-! ### Memory -/

/-- Every memory is in canonical form: its cells' addresses are 0, 1, ..., strictly rising. -/
theorem Memory.wf_true (m : Memory) : Memory.wf m = true := by
  simp [Memory.wf, Memory.cells, List.map_fst_zip]

theorem Memory.cells_sorted (m : Memory) : ((Memory.cells m).map Prod.fst).Pairwise (· < ·) := by
  have h := of_decide_eq_true (Memory.wf_true m)
  rw [h]
  exact List.pairwise_lt_range

/-- Equal cells are equal memories. -/
theorem Memory.cells_injective {m m' : Memory} (h : Memory.cells m = Memory.cells m') : m = m' := by
  have e : ∀ x : Memory, (Memory.cells x).map Prod.snd = x := fun x => by simp [Memory.cells, List.map_snd_zip]
  rw [← e m, h, e m']

/-- OUT stays in canonical form under the only write there is. -/
theorem State.appendOut_wf (s : State) (bs : Bytes) : Memory.wf (s.appendOut bs).out = true := Memory.wf_true _

theorem readBytes_eq_some {m : Memory} {a n : Nat} {bs : Bytes} :
    readBytes m a n = some bs ↔ a + n ≤ m.length ∧ bs = (m.drop a).take n := by
  unfold readBytes
  split <;> simp_all [eq_comm]

theorem readBytes_of_le {m : Memory} {a n : Nat} (h : a + n ≤ m.length) :
    readBytes m a n = some ((m.drop a).take n) := readBytes_eq_some.2 ⟨h, rfl⟩

/-- A read is defined exactly when all its addresses exist (R8, R45). -/
theorem memRead_isSome {m : Memory} {a n : Nat} : (memRead m a n).isSome = true ↔ a + n ≤ m.length := by
  unfold memRead readBytes
  split <;> simp_all

theorem memRead_of_le {m : Memory} {a n : Nat} (h : a + n ≤ m.length) :
    memRead m a n = some (beNat ((m.drop a).take n)) := by
  simp [memRead, readBytes_of_le h]

theorem beNat_singleton (b : Byte) : beNat [b] = b.toNat := by simp [beNat]

theorem memRead8_of_lt {m : Memory} {a : Nat} (h : a < m.length) : memRead8 m a = some m[a] := by
  have e : (m.drop a).take 1 = [m[a]] := by rw [List.drop_eq_getElem_cons h]; rfl
  have hr : memRead m a 1 = some (beNat [m[a]]) := by rw [memRead_of_le (by omega), e]
  rw [memRead8, hr, Option.map_some, beNat_singleton, BitVec.ofNat_toNat, BitVec.setWidth_eq]

theorem memRead8_eq_getElem? (m : Memory) (a : Nat) : memRead8 m a = m[a]? := by
  rcases Nat.lt_or_ge a m.length with h | h
  · rw [memRead8_of_lt h, List.getElem?_eq_getElem h]
  · rw [List.getElem?_eq_none h]
    simp [memRead8, memRead, readBytes]
    omega

theorem memRead16_of_le {m : Memory} {a : Nat} (h : a + 2 ≤ m.length) :
    ∃ x, memRead16 m a = some x := ⟨_, by simp [memRead16, memRead_of_le h]; rfl⟩

theorem memRead32_of_le {m : Memory} {a : Nat} (h : a + 4 ≤ m.length) :
    ∃ x, memRead32 m a = some x := ⟨_, by simp [memRead32, memRead_of_le h]; rfl⟩

/-- A continuation after a read answers a next state only with the value read. -/
theorem withRead_eq_next {α : Type} {r : Option α} {k : α → Out} {t : State} :
    withRead r k = .next t ↔ ∃ x, r = some x ∧ k x = .next t := by
  cases r <;> simp [withRead]

@[simp] theorem withRead_some {α : Type} (x : α) (k : α → Out) : withRead (some x) k = k x := rfl

/-- A table image that exists is read whole. -/
theorem readTable_of_le {m : Memory} {a : Nat} : ∀ {k : Nat}, a + 4 * k ≤ m.length → ∃ t, readTable m a k = some t
  | 0, _ => ⟨_, rfl⟩
  | k + 1, h => by
    obtain ⟨t, ht⟩ := readTable_of_le (m := m) (a := a) (k := k) (by omega)
    obtain ⟨x, hx⟩ := memRead32_of_le (m := m) (a := a + 4 * k) (by omega)
    exact ⟨t.push x, by simp [readTable, ht, hx]⟩

/-- Entry `i` of a table is the word at `a + 4i` (R103). -/
theorem readTable_getElem {m : Memory} {a : Nat} : ∀ {k : Nat} {t : Vector U32 k}, readTable m a k = some t →
    ∀ i (h : i < k), memRead32 m (a + 4 * i) = some t[i]
  | 0, _, _, _, h => absurd h (Nat.not_lt_zero _)
  | k + 1, t, e, i, h => by
    simp only [readTable] at e
    split at e
    · rename_i t' x ht hx
      cases e
      rcases Nat.lt_succ_iff_lt_or_eq.1 h with h' | rfl
      · rw [readTable_getElem ht i h']
        simp [h']
      · rw [hx]; simp
    · cases e

/-- A stream inside its space is read at every position (R121). -/
theorem streamBit_of_le {m : Memory} {base n p : Nat} (h : base + n ≤ m.length) : ∃ b, streamBit m base n p = some b := by
  unfold streamBit
  split
  · rw [memRead8_of_lt (by omega)]; exact ⟨_, rfl⟩
  · exact ⟨_, rfl⟩

theorem streamBits_of_le {m : Memory} {base n p : Nat} (h : base + n ≤ m.length) :
    ∀ k, ∃ x, streamBits m base n p k = some x
  | 0 => ⟨_, rfl⟩
  | k + 1 => by
    obtain ⟨x, hx⟩ := streamBits_of_le (p := p) h k
    obtain ⟨b, hb⟩ := streamBit_of_le (p := p + k) h
    exact ⟨2 * x + b.toNat, by simp [streamBits, hx, hb]⟩

theorem peek32_of_le {m : Memory} {base n bp : Nat} (h : base + n ≤ m.length) : ∃ w, peek32 m base n bp = some w := by
  obtain ⟨x, hx⟩ := streamBits_of_le (p := bp) h 32
  exact ⟨BitVec.ofNat 32 x, by simp [peek32, hx]⟩

/-! ### The output buffer -/

/-- The capacity test passes exactly when `OUT_MAX` allows `k` more bytes (R184). -/
theorem State.fits_iff {s : State} {k : Nat} :
    s.fits k = true ↔ ∀ m, s.params.outMax = some m → s.out.length + k ≤ m := by
  unfold State.fits State.outLen
  cases s.params.outMax <;> simp

/-- The copy of a back-reference that reaches no further than the start of the output succeeds, and appends exactly
`k` bytes. -/
theorem copyBack_of_le {dist : Nat} (h1 : 1 ≤ dist) : ∀ {k : Nat} {out : Memory}, dist ≤ out.length →
    ∃ bs, copyBack dist k out = some (out ++ bs) ∧ bs.length = k
  | 0, out, _ => ⟨[], by simp [copyBack]⟩
  | k + 1, out, h => by
    have hr : memRead8 out (out.length - dist) = some (out[out.length - dist]'(by omega)) :=
      memRead8_of_lt (by omega)
    obtain ⟨bs, e, hl⟩ := copyBack_of_le h1 (k := k) (out := out ++ [out[out.length - dist]'(by omega)])
      (by simp; omega)
    exact ⟨out[out.length - dist]'(by omega) :: bs, by simp [copyBack, hr, e], by simp [hl]⟩

/-- Whatever the copy answers is an extension of the output. -/
theorem copyBack_extends {dist : Nat} : ∀ {k : Nat} {out out' : Memory}, copyBack dist k out = some out' →
    ∃ bs, out' = out ++ bs ∧ bs.length = k
  | 0, out, out', e => ⟨[], by simp_all [copyBack]⟩
  | k + 1, out, out', e => by
    simp only [copyBack] at e
    split at e
    · obtain ⟨bs, h, hl⟩ := copyBack_extends e
      exact ⟨_ :: bs, by simpa using h, by simp [hl]⟩
    · cases e

/-! ### Commands -/

/-- Command entry: refused in FAULT, or on with the command's rules in BUSY (R161). -/
theorem enterCommand_eq_next {s t : State} {k : State → Out} (h : enterCommand s k = .next t) :
    (s.status = .fault ∧ t = s.refuse) ∨ (s.status ≠ .fault ∧ k s.begin = .next t) := by
  unfold enterCommand at h
  split at h
  · exact .inl ⟨‹_›, by cases h; rfl⟩
  · exact .inr ⟨‹_›, h⟩

/-! ### Frames and guard -/

theorem State.returnFrame_cons {s : State} {f : Frame} {rest : List Frame} (h : s.frames = f :: rest) :
    s.returnFrame = { s with
      frames := rest, guard := if f.key0.isSome then s.guard.tail else s.guard, engine := .hdCode } := by
  simp [State.returnFrame, h]

/-- The guard has room exactly when `GUARD_CAP` allows one more key (R146). -/
theorem State.guardHasRoom_iff {s : State} :
    s.guardHasRoom = true ↔ ∀ m, s.params.guardCap = some m → s.guard.length < m := by
  unfold State.guardHasRoom
  cases s.params.guardCap <;> simp

/-! ### The meanings' shared parts -/

/-- LIT, RUN and SPC append their bytes and advance, or overflow (R184). -/
theorem emitLz_eq_next {bs : Bytes} {size : Nat} {s t : State} (h : emitLz bs size s = .next t) :
    (s.fits bs.length = true ∧ t = (s.appendOut bs).advance size) ∨
      (s.fits bs.length = false ∧ t = s.raise .outOverflow s.ip) := by
  unfold emitLz at h
  split at h
  · exact .inl ⟨‹_›, by cases h; rfl⟩
  · exact .inr ⟨by simpa using ‹¬ s.fits bs.length = true›, by cases h; rfl⟩

/-- A code runs only in a frame, and a length of zero faults there (R123). -/
theorem withCode_eq_next {len : BitVec 5} {s t : State} {k : Frame → List Frame → Out}
    (h : withCode len s k = .next t) :
    ∃ f rest, s.frames = f :: rest ∧
      ((len = 0 ∧ t = s.raise .hdZeroCodeLen f.bp) ∨ (len ≠ 0 ∧ k f rest = .next t)) := by
  unfold withCode at h
  split at h
  · cases h
  · rename_i f rest e
    refine ⟨f, rest, e, ?_⟩
    split at h
    · exact .inl ⟨‹_›, by cases h; rfl⟩
    · exact .inr ⟨‹_›, h⟩

/-- End of stream with a code that does not fit (R128). -/
theorem straddle_eq_next {f : Frame} {s t : State} (h : straddle f s = .next t) :
    (s.hd.w = 0 ∧ t = s.returnFrame) ∨
      (s.hd.w ≠ 0 ∧ s.params.straddlePolicy = .warn ∧ t = s.setWarn.returnFrame) ∨
      (s.hd.w ≠ 0 ∧ s.params.straddlePolicy = .fault ∧ t = s.raise .hdStraddle f.bp) := by
  unfold straddle at h
  split at h
  · exact .inl ⟨‹_›, by cases h; rfl⟩
  · split at h
    · exact .inr (.inr ⟨‹_›, ‹_›, by cases h; rfl⟩)
    · exact .inr (.inl ⟨‹_›, ‹_›, by cases h; rfl⟩)

/-- What follows a resolved code: it is consumed, or the stream ends with or without a warning or in a fault (R127,
R128). -/
theorem consumeCode_eq_next {f : Frame} {rest : List Frame} {L : Nat} {code : U32} {s t : State}
    (h : consumeCode f rest L code s = .next t) :
    (L ≤ f.rem ∧ t = (s.latchCode L code f.bp).consume f rest L) ∨
      (f.rem < L ∧ s.hd.w = 0 ∧ t = (s.latchCode L code f.bp).returnFrame) ∨
      (f.rem < L ∧ s.hd.w ≠ 0 ∧ s.params.straddlePolicy = .warn ∧
        t = (s.latchCode L code f.bp).setWarn.returnFrame) ∨
      (f.rem < L ∧ s.hd.w ≠ 0 ∧ s.params.straddlePolicy = .fault ∧
        t = (s.latchCode L code f.bp).raise .hdStraddle f.bp) := by
  unfold consumeCode at h
  split at h
  · rcases straddle_eq_next h with ⟨hw, e⟩ | ⟨hw, hp, e⟩ | ⟨hw, hp, e⟩
    · exact .inr (.inl ⟨‹_›, hw, e⟩)
    · exact .inr (.inr (.inl ⟨‹_›, hw, hp, e⟩))
    · exact .inr (.inr (.inr ⟨‹_›, hw, hp, e⟩))
  · exact .inl ⟨by omega, by cases h; rfl⟩

end Sys2Proof.Machine
end

