-- ==== Sys2Proof/Laws/PerInstr.lean ====
section
/-! SUPPORT. Statements about every instruction as syntax, one lemma per constructor. -/

namespace Sys2Proof.Laws

open Sys2Proof

/-- The encoding and the size in bytes that the formats of R61, R66 and R68 give an instruction; none for a host
command (R71). -/
def formatOf : Instr → Option (Encoding × Nat)
  | .lit _ => some (.lz, 1)
  | .run data => some (.lz, 1 + data.length)
  | .bref _ _ => some (.lz, 2)
  | .spc _ => some (.lz, 1)
  | .hcodeT _ _ _ => some (.cacheWord, 4)
  | .hcodeB _ _ _ => some (.cacheWord, 4)
  | .entLit _ => some (.entryHeader, 2)
  | .entRec _ => some (.entryHeader, 2)
  | .reset => none
  | .setHuff _ => none
  | .addCdic _ => none
  | .decompPalm _ => none
  | .decompHuff _ => none

/-- The encoder gives an instruction the encoding and the size of its format. -/
def EncodedSize.Statement (i : Instr) : Prop := (encode i).map (fun p => (p.1, p.2.length)) = formatOf i

theorem EncodedSize.lit (c : Byte) : EncodedSize.Statement (.lit c) := rfl

theorem EncodedSize.run (data : Bytes) : EncodedSize.Statement (.run data) := by
  simp [EncodedSize.Statement, encode, formatOf, Nat.add_comm]

theorem EncodedSize.bref (dist : BitVec 11) (lenField : BitVec 3) : EncodedSize.Statement (.bref dist lenField) := rfl

theorem EncodedSize.spc (low : BitVec 6) : EncodedSize.Statement (.spc low) := rfl

theorem EncodedSize.hcodeT (maxcode : BitVec 24) (ignored : BitVec 2) (len : BitVec 5) :
    EncodedSize.Statement (.hcodeT maxcode ignored len) := rfl

theorem EncodedSize.hcodeB (unused : BitVec 24) (ignored : BitVec 2) (len : BitVec 5) :
    EncodedSize.Statement (.hcodeB unused ignored len) := rfl

theorem EncodedSize.entLit (len : BitVec 15) : EncodedSize.Statement (.entLit len) := rfl

theorem EncodedSize.entRec (len : BitVec 15) : EncodedSize.Statement (.entRec len) := rfl

theorem EncodedSize.reset : EncodedSize.Statement .reset := rfl

theorem EncodedSize.setHuff (record : Bytes) : EncodedSize.Statement (.setHuff record) := rfl

theorem EncodedSize.addCdic (record : Bytes) : EncodedSize.Statement (.addCdic record) := rfl

theorem EncodedSize.decompPalm (payload : Bytes) : EncodedSize.Statement (.decompPalm payload) := rfl

theorem EncodedSize.decompHuff (payload : Bytes) : EncodedSize.Statement (.decompHuff payload) := rfl

end Sys2Proof.Laws
end

