-- ==== Sys2Proof/Laws/Step.lean ====
section
/-! SUPPORT. Inversion: what each meaning and each fetch can have done when it answers a next state. Proofs about a step
start from these and unfold no meaning. -/

namespace Sys2Proof.Machine

open Sys2Proof

/-! ### Meanings -/

theorem execRun_eq_next {data : Bytes} {s t : State} (h : execRun data s = .next t) :
    (s.input.length < s.ip + 1 + data.length ∧ t = s.raise .lzTruncated s.ip) ∨
      (s.ip + 1 + data.length ≤ s.input.length ∧ s.fits data.length = true ∧
        t = (s.appendOut data).advance (1 + data.length)) ∨
      (s.ip + 1 + data.length ≤ s.input.length ∧ s.fits data.length = false ∧ t = s.raise .outOverflow s.ip) := by
  unfold execRun at h
  split at h
  · exact .inl ⟨‹_›, by cases h; rfl⟩
  · rcases emitLz_eq_next h with ⟨hf, e⟩ | ⟨hf, e⟩
    · exact .inr (.inl ⟨by omega, hf, e⟩)
    · exact .inr (.inr ⟨by omega, hf, e⟩)

theorem copyBref_eq_next {s t : State} (h : copyBref s = .next t) :
    ((s.lz.dist.toNat = 0 ∨ s.outLen < s.lz.dist.toNat) ∧ t = s.raise .lzBadDistance s.ip) ∨
      (1 ≤ s.lz.dist.toNat ∧ s.lz.dist.toNat ≤ s.outLen ∧ s.fits s.lz.len.toNat = true ∧
        ∃ out, copyBack s.lz.dist.toNat s.lz.len.toNat s.out = some out ∧ t = (s.setOut out).advance 2) ∨
      (1 ≤ s.lz.dist.toNat ∧ s.lz.dist.toNat ≤ s.outLen ∧ s.fits s.lz.len.toNat = false ∧
        t = s.raise .outOverflow s.ip) := by
  unfold copyBref at h
  split at h
  · exact .inl ⟨‹_›, by cases h; rfl⟩
  · split at h
    · obtain ⟨out, e, e'⟩ := withRead_eq_next.1 h
      exact .inr (.inl ⟨by omega, by omega, ‹_›, out, e, by cases e'; rfl⟩)
    · exact .inr (.inr ⟨by omega, by omega, by simpa using ‹¬ s.fits s.lz.len.toNat = true›, by cases h; rfl⟩)

theorem execBref_eq_next {dist : BitVec 11} {lenField : BitVec 3} {s t : State}
    (h : execBref dist lenField s = .next t) :
    (s.input.length < s.ip + 2 ∧ t = s.raise .lzTruncated s.ip) ∨
      (s.ip + 2 ≤ s.input.length ∧ copyBref (s.latchBref (brefWordOf dist lenField)) = .next t) := by
  unfold execBref at h
  split at h
  · exact .inl ⟨‹_›, by cases h; rfl⟩
  · exact .inr ⟨by omega, h⟩

theorem execHcodeB_eq_next {u : BitVec 24} {g : BitVec 2} {len : BitVec 5} {s t : State}
    (h : execHcodeB u g len s = .next t) :
    ∃ f rest, s.frames = f :: rest ∧
      ((len = 0 ∧ t = s.raise .hdZeroCodeLen f.bp) ∨
        (len ≠ 0 ∧ scanBase s.baseTable s.hd.w len.toNat = none ∧ t = s.raise .hdBaseScanOverflow f.bp) ∨
        (len ≠ 0 ∧ ∃ L, scanBase s.baseTable s.hd.w len.toNat = some L ∧
          consumeCode f rest L (codeB s.params (maxOf s.baseTable L) s.hd.w L) s = .next t)) := by
  obtain ⟨f, rest, e, ⟨h0, h1⟩ | ⟨h0, h1⟩⟩ := withCode_eq_next h
  · exact ⟨f, rest, e, .inl ⟨h0, h1⟩⟩
  · refine ⟨f, rest, e, ?_⟩
    split at h1
    · exact .inr (.inl ⟨h0, ‹_›, by cases h1; rfl⟩)
    · exact .inr (.inr ⟨h0, _, ‹_›, h1⟩)

/-- The scan answers a length from its start up to 32 (R125). -/
theorem scanBase_range {t : Vector U32 64} {w : U32} {len L : Nat} (h : scanBase t w len = some L) :
    len ≤ L ∧ L ≤ 32 ∧ (baseOf t L).toNat ≤ (topBits w L).toNat := by
  unfold scanBase at h
  have h1 := List.mem_of_find?_eq_some h
  have h2 := List.find?_some h
  simp only [decide_eq_true_eq] at h2
  simp only [List.mem_range'_1, Config.windowBits] at h1
  omega

theorem execEntLit_eq_next {len : BitVec 15} {s t : State} (h : execEntLit len s = .next t) :
    (127 < len.toNat ∧ t = s.raise .hdSymLenTooBig s.hd.start) ∨
      (len.toNat ≤ 127 ∧ s.fits len.toNat = true ∧
        ∃ body, s.entryBody len.toNat = some body ∧ t = (s.appendOut body).resume) ∨
      (len.toNat ≤ 127 ∧ s.fits len.toNat = false ∧ t = s.raise .outOverflow s.hd.start) := by
  unfold execEntLit Config.litMax at h
  split at h
  · exact .inl ⟨‹_›, by cases h; rfl⟩
  · split at h
    · obtain ⟨body, e, e'⟩ := withRead_eq_next.1 h
      exact .inr (.inl ⟨by omega, ‹_›, body, e, by cases e'; rfl⟩)
    · exact .inr (.inr ⟨by omega, by simpa using ‹¬ s.fits len.toNat = true›, by cases h; rfl⟩)

theorem execEntRec_eq_next {len : BitVec 15} {s t : State} (h : execEntRec len s = .next t) :
    (s.guardKeyOf ∈ s.guard ∧ t = s.raise .hdInfiniteRecursion s.hd.start) ∨
      (s.guardKeyOf ∉ s.guard ∧ s.guardHasRoom = true ∧
        t = s.pushFrame s.guardKeyOf s.hd.dict (s.hd.off.toNat + 2) len.toNat) ∨
      (s.guardKeyOf ∉ s.guard ∧ s.guardHasRoom = false ∧ t = s.raise .guardOverflow s.hd.start) := by
  unfold execEntRec at h
  split at h
  · exact .inl ⟨‹_›, by cases h; rfl⟩
  · split at h
    · exact .inr (.inl ⟨‹_›, ‹_›, by cases h; rfl⟩)
    · exact .inr (.inr ⟨‹_›, by simpa using ‹¬ s.guardHasRoom = true›, by cases h; rfl⟩)

/-- The body of an entry lies in its blob and has the entry's length (R144). -/
theorem State.entryBody_eq_some {s : State} {k : Nat} {body : Bytes} (h : s.entryBody k = some body) :
    ∃ D, s.dicts[s.hd.dict]? = some D ∧ s.hd.off.toNat + 2 + k ≤ D.length ∧
      body = (D.drop (s.hd.off.toNat + 2)).take k ∧ body.length = k := by
  unfold State.entryBody at h
  split at h
  · rename_i D e
    obtain ⟨h1, rfl⟩ := readBytes_eq_some.1 h
    exact ⟨D, e, h1, rfl, by simp; omega⟩
  · cases h

theorem setHuffBody_eq_next {record : Bytes} {s t : State} (h : setHuffBody record s = .next t) :
    (∃ f, f ≠ .none ∧ t = s.raise f 0) ∨
      (∃ c b, readTable record 24 256 = some c ∧ readTable record 1048 64 = some b ∧
        t = (s.loadTables c b).finish .ok) := by
  unfold setHuffBody Config.huffMinLen Config.huffHdrLen Config.cacheBytes Config.baseBytes at h
  split at h
  · cases h; exact .inl ⟨_, by simp, rfl⟩
  obtain ⟨_, _, h⟩ := withRead_eq_next.1 h
  split at h
  · cases h; exact .inl ⟨_, by simp, rfl⟩
  obtain ⟨_, _, h⟩ := withRead_eq_next.1 h
  split at h
  · cases h; exact .inl ⟨_, by simp, rfl⟩
  obtain ⟨_, _, h⟩ := withRead_eq_next.1 h
  split at h
  · cases h; exact .inl ⟨_, by simp, rfl⟩
  obtain ⟨_, _, h⟩ := withRead_eq_next.1 h
  split at h
  · cases h; exact .inl ⟨_, by simp, rfl⟩
  obtain ⟨c, hc, h⟩ := withRead_eq_next.1 h
  obtain ⟨b, hb, h⟩ := withRead_eq_next.1 h
  cases h
  exact .inr ⟨c, b, hc, hb, rfl⟩

theorem addCdicBody_eq_next {record : Bytes} {s t : State} (h : addCdicBody record s = .next t) :
    (∃ f, f ≠ .none ∧ t = s.raise f 0) ∨
      (s.dictsCount < 32 ∧ 16 ≤ record.length ∧ ∃ cl, memRead32 record 12 = some cl ∧
        cdicSizeOk s.params (record.length - 16) (s.reconcile cl) = true ∧
        t = (s.addDict (record.drop 16) (s.reconcile cl)).finish .ok) := by
  unfold addCdicBody Config.dictMax Config.cdicHdrLen Config.cdicCodeLenOff at h
  split at h
  · cases h; exact .inl ⟨_, by simp, rfl⟩
  split at h
  · cases h; exact .inl ⟨_, by simp, rfl⟩
  obtain ⟨_, _, h⟩ := withRead_eq_next.1 h
  split at h
  · cases h; exact .inl ⟨_, by simp, rfl⟩
  obtain ⟨_, _, h⟩ := withRead_eq_next.1 h
  split at h
  · cases h; exact .inl ⟨_, by simp, rfl⟩
  obtain ⟨cl, hcl, h⟩ := withRead_eq_next.1 h
  split at h
  · cases h
    exact .inr ⟨by omega, by omega, cl, hcl, ‹_›, rfl⟩
  · cases h; exact .inl ⟨_, by simp, rfl⟩

theorem decompHuffBody_eq_next {payload : Bytes} {s t : State} (h : decompHuffBody payload s = .next t) :
    (s.huffValid = true ∧ t = s.clearWarn.startHd payload) ∨
      (s.huffValid = false ∧ t = s.clearWarn.raise .hdNotConfigured 0) := by
  unfold decompHuffBody at h
  split at h
  · exact .inl ⟨‹_›, by cases h; rfl⟩
  · exact .inr ⟨by simpa using ‹¬ s.huffValid = true›, by cases h; rfl⟩

/-! ### Steps, by what the unit is doing -/

/-- No command runs: the unit waits, or runs the host's next command (R10, R160). -/
theorem step_command {s t : State} (hs : s.status ≠ .busy) (h : step s = .next t) :
    (s.host = [] ∧ t = s) ∨ ∃ c cs, s.host = c :: cs ∧ exec c.instr (s.takeCommand cs) = .next t := by
  have hf : fetch s = fetchCommand s := by
    unfold fetch; cases e : s.status <;> simp_all
  unfold step at h
  rw [hf] at h
  unfold fetchCommand at h
  cases e : s.host with
  | nil => rw [e] at h; cases h; exact .inl ⟨rfl, rfl⟩
  | cons c cs => rw [e] at h; exact .inr ⟨c, cs, rfl, h⟩

/-- The LZ loop: it ends, or the instruction at `ip` runs (R80). -/
theorem step_lz {s t : State} (hs : s.status = .busy) (he : s.engine = .lz) (h : step s = .next t) :
    (s.input.length ≤ s.ip ∧ t = s.finish .ok) ∨
      ∃ (hlt : s.ip < s.input.length) (i : Instr) (rest : Bytes), decodeLz s.lzWindow = .ok i rest ∧
        exec i (s.latchControl s.input[s.ip]) = .next t := by
  have hf : fetch s = fetchLz s := by simp [fetch, hs, he]
  unfold step at h
  rw [hf] at h
  unfold fetchLz at h
  by_cases hlt : s.ip < s.input.length
  · rw [if_pos hlt, memRead8_of_lt hlt] at h
    simp only [fetchRead] at h
    cases e : decodeLz s.lzWindow with
    | ok i rest => rw [e] at h; exact .inr ⟨hlt, i, rest, rfl, h⟩
    | error e' => rw [e] at h; cases h
  · rw [if_neg hlt] at h
    cases h
    exact .inl ⟨by omega, rfl⟩

/-- The HD loop before a code: the command ends, the innermost frame returns, or a code runs (R120, R122). -/
theorem step_hdCode {s t : State} (hs : s.status = .busy) (he : s.engine = .hdCode) (h : step s = .next t) :
    (s.frames = [] ∧ t = s.finish (.okWarn s.warnLeftover)) ∨
      ∃ f rest, s.frames = f :: rest ∧
        (t = s.returnFrame ∨
          ∃ m w, s.space f.space = some m ∧ peek32 m f.base f.n f.bp = some w ∧ f.rem ≠ 0 ∧ ¬ (f.rem < 8 ∧ w = 0) ∧
            exec (decodeCacheWord s.cacheTable[cacheIndex w])
              (s.latchWindow w s.cacheTable[cacheIndex w] f.bp) = .next t) := by
  have hf : fetch s = fetchHdCode s := by simp [fetch, hs, he]
  unfold step at h
  rw [hf] at h
  unfold fetchHdCode at h
  cases e : s.frames with
  | nil => rw [e] at h; cases h; exact .inl ⟨rfl, rfl⟩
  | cons f rest =>
    rw [e] at h
    refine .inr ⟨f, rest, rfl, ?_⟩
    simp only [fetchCode] at h
    by_cases hr : f.rem = 0
    · rw [if_pos hr] at h; cases h; exact .inl rfl
    · rw [if_neg hr] at h
      cases em : s.space f.space with
      | none => rw [em] at h; cases h
      | some m =>
        cases ew : peek32 m f.base f.n f.bp with
        | none => rw [em] at h; simp only [fetchRead] at h; rw [ew] at h; cases h
        | some w =>
          rw [em] at h
          simp only [fetchRead] at h
          rw [ew] at h
          simp only at h
          by_cases hp : f.rem < 8 ∧ w = 0
          · rw [if_pos hp] at h; cases h; exact .inl rfl
          · rw [if_neg hp] at h
            exact .inr ⟨m, w, rfl, ew, hr, hp, h⟩

/-- Two states that differ in the HD latches only. -/
def State.SameButHd (s t : State) : Prop := t = { s with hd := t.hd }

theorem lookupFault_eq (f : FaultName) (s : State) : lookupFault f s = .stop (.next (s.raise f s.hd.start)) := rfl

/-- The header of an entry is inside the blob, and so is its body, or the lookup faults (R144). -/
theorem fetchHeader_cases (D : Memory) (s : State) :
    (∃ f u, f ≠ FaultName.none ∧ s.SameButHd u ∧ fetchHeader D s = .stop (.next (u.raise f s.hd.start))) ∨
      ∃ x, memRead16 D s.hd.off.toNat = some x ∧ s.hd.off.toNat + 2 + (entryLen x).toNat ≤ D.length ∧
        fetchHeader D s = .run (decodeEntryHeader x) (s.latchSymLen x) := by
  unfold fetchHeader
  split
  · exact .inl ⟨.hdBadOffset, s, by simp, rfl, rfl⟩
  · obtain ⟨x, ex⟩ := memRead16_of_le (m := D) (a := s.hd.off.toNat) (by omega)
    rw [ex]
    simp only [fetchRead]
    split
    · exact .inl ⟨.hdBadSymLen, s.latchSymLen x, by simp, rfl, rfl⟩
    · exact .inr ⟨x, rfl, by omega, rfl⟩

/-- The offset of an entry is read from a slot inside the blob, or the lookup faults (R143). -/
theorem fetchOffset_cases (D : Memory) (s : State) :
    (∃ f u, f ≠ FaultName.none ∧ s.SameButHd u ∧ fetchOffset D s = .stop (.next (u.raise f s.hd.start))) ∨
      ∃ off, memRead16 D (2 * s.hd.key) = some off ∧ fetchOffset D s = fetchHeader D (s.latchOff off) := by
  unfold fetchOffset
  split
  · exact .inl ⟨.hdBadOffset, s, by simp, rfl, rfl⟩
  · obtain ⟨off, eo⟩ := memRead16_of_le (m := D) (a := 2 * s.hd.key) (by omega)
    rw [eo]
    exact .inr ⟨off, rfl, rfl⟩

/-- The split answers a blob that is held, or the lookup faults (R141, R142). -/
theorem fetchHdEntry_split (s : State) :
    (∃ u, s.SameButHd u ∧ fetchHdEntry s = .stop (.next (u.raise .hdBadDict s.hd.start))) ∨
      ∃ D, s.clValid = true ∧ s.dicts[splitDict s.codeLength s.hd.code]? = some D ∧
        fetchHdEntry s = fetchOffset D
          (s.latchSplit (splitDict s.codeLength s.hd.code) (splitKey s.codeLength s.hd.code)) := by
  unfold fetchHdEntry State.splitCode
  cases hv : s.clValid
  · exact .inl ⟨s, rfl, by simp [lookupFault_eq]⟩
  · by_cases hd : s.dictsCount ≤ splitDict s.codeLength s.hd.code
    · exact .inl ⟨s.latchSplit (splitDict s.codeLength s.hd.code) (splitKey s.codeLength s.hd.code), rfl, by
        simp [lookupFault_eq, hd]⟩
    · have hlt : splitDict s.codeLength s.hd.code < s.dicts.length := by unfold State.dictsCount at hd; omega
      exact .inr ⟨_, rfl, List.getElem?_eq_getElem hlt, by simp [hd, hlt, fetchRead]⟩

/-- The lookup of a resolved code ends in a fault at the code's position, or finds an entry whose header and body lie
inside a blob that is held (R140 to R144). It reads nothing that does not exist. -/
theorem fetchHdEntry_cases (s : State) :
    (∃ f u, f ≠ FaultName.none ∧ s.SameButHd u ∧ fetchHdEntry s = .stop (.next (u.raise f s.hd.start))) ∨
      ∃ D x u, s.clValid = true ∧ s.SameButHd u ∧ u.hd.start = s.hd.start ∧ u.hd.code = s.hd.code ∧
        s.dicts[u.hd.dict]? = some D ∧ u.hd.dict = splitDict s.codeLength s.hd.code ∧
        u.hd.key = splitKey s.codeLength s.hd.code ∧
        memRead16 D (2 * u.hd.key) = some u.hd.off ∧ memRead16 D u.hd.off.toNat = some x ∧
        u.hd.off.toNat + 2 + (entryLen x).toNat ≤ D.length ∧ u.hd.symLen = x ∧ u.hd.len = entryLen x ∧
        fetchHdEntry s = .run (decodeEntryHeader x) u := by
  rcases fetchHdEntry_split s with ⟨u, hu, e⟩ | ⟨D, hv, eD, e⟩
  · exact .inl ⟨_, u, by simp, hu, e⟩
  rw [e]
  rcases fetchOffset_cases D (s.latchSplit (splitDict s.codeLength s.hd.code) (splitKey s.codeLength s.hd.code)) with
    ⟨f, u, hf, hu, e⟩ | ⟨off, eo, e⟩
  · exact .inl ⟨f, u, hf, hu, e⟩
  rw [e]
  rcases fetchHeader_cases D ((s.latchSplit (splitDict s.codeLength s.hd.code)
      (splitKey s.codeLength s.hd.code)).latchOff off) with ⟨f, u, hf, hu, e⟩ | ⟨x, ex, hl, e⟩
  · exact .inl ⟨f, u, hf, hu, e⟩
  · exact .inr ⟨D, x, (((s.latchSplit (splitDict s.codeLength s.hd.code)
      (splitKey s.codeLength s.hd.code)).latchOff off).latchSymLen x), hv, rfl, rfl, rfl, eD, rfl, rfl, eo, ex, hl, rfl,
      rfl, e⟩

/-- The HD loop at a resolved code: the lookup faults at the code's position, or the entry it names runs (R140). -/
theorem step_hdEntry {s t : State} (hs : s.status = .busy) (he : s.engine = .hdEntry) (h : step s = .next t) :
    (∃ f u, f ≠ FaultName.none ∧ s.SameButHd u ∧ t = u.raise f s.hd.start) ∨
      ∃ D x u, s.clValid = true ∧ s.SameButHd u ∧ u.hd.start = s.hd.start ∧ u.hd.code = s.hd.code ∧
        s.dicts[u.hd.dict]? = some D ∧ u.hd.dict = splitDict s.codeLength s.hd.code ∧
        u.hd.key = splitKey s.codeLength s.hd.code ∧
        memRead16 D (2 * u.hd.key) = some u.hd.off ∧ memRead16 D u.hd.off.toNat = some x ∧
        u.hd.off.toNat + 2 + (entryLen x).toNat ≤ D.length ∧ u.hd.symLen = x ∧ u.hd.len = entryLen x ∧
        exec (decodeEntryHeader x) u = .next t := by
  have hf : fetch s = fetchHdEntry s := by simp [fetch, hs, he]
  unfold step at h
  rw [hf] at h
  rcases fetchHdEntry_cases s with ⟨f, u, hf0, hu, e⟩ | ⟨D, x, u, h1, h2, h3, h4, h5, h6, h7, h8, h9, h10, h11, h12, e⟩
  · rw [e] at h; cases h; exact .inl ⟨f, u, hf0, hu, rfl⟩
  · rw [e] at h; exact .inr ⟨D, x, u, h1, h2, h3, h4, h5, h6, h7, h8, h9, h10, h11, h12, h⟩

end Sys2Proof.Machine
end

