-- ==== Sys2Proof/Tests/Slice0.lean ====
section
/-! SUPPORT. Tests: what WellFormed refuses, words written out bit by bit from the formats, one step of each
instruction with results from the vectors of 95_test_vectors.md, and for each obligation with hypotheses a witness that
meets them. -/

namespace Sys2Proof.Tests

open Sys2Proof Sys2Proof.Machine

/-! ### WellFormed -/

theorem test_lit_wellFormed : (Instr.lit 0).wellFormed = true ∧ (Instr.lit 9).wellFormed = true ∧
    (Instr.lit 0x7F).wellFormed = true := by decide

theorem test_lit_refused : (Instr.lit 1).wellFormed = false ∧ (Instr.lit 8).wellFormed = false ∧
    (Instr.lit 0x80).wellFormed = false := by decide

theorem test_run_refused : (Instr.run []).wellFormed = false ∧
    (Instr.run [1, 2, 3, 4, 5, 6, 7, 8, 9]).wellFormed = false := by decide

/-! ### Decode: words written out from R61, R66, R68 and the table after V-LZ28 -/

theorem test_decode_lit : decode .lz [0b00001001, 0xFF] = .ok (.lit 9) [0xFF] := by decide

/-- V-LZ7: the bytes after a RUN's control byte are data. -/
theorem test_decode_run : decode .lz [0b00000010, 0x80, 0x08] = .ok (.run [0x80, 0x08]) [] := by decide

/-- `80 14` is dist 2, len 7; `80 3B` is dist 7, len 6. -/
theorem test_decode_bref : decode .lz [0b10000000, 0b00010100] = .ok (.bref 2 4) [] ∧
    decode .lz [0b10000000, 0b00111011] = .ok (.bref 7 3) [] := by decide

theorem test_decode_spc : decode .lz [0b11000001] = .ok (.spc 1) [] ∧ spcChar 1 = 0x41 := by decide

/-- The cache words of tables T1: 0x00000382 and 0x00000004. -/
theorem test_decode_hcode : decode .cacheWord [0x00, 0x00, 0x03, 0b1_00_00010] = .ok (.hcodeT 3 0 2) [] ∧
    decode .cacheWord [0x00, 0x00, 0x00, 0b0_00_00100] = .ok (.hcodeB 0 0 4) [] := by decide

/-- The entry headers of blob D0: 80 02 and 00 01. -/
theorem test_decode_entry : decode .entryHeader [0b1_0000000, 0x02] = .ok (.entLit 2) [] ∧
    decode .entryHeader [0b0_0000000, 0x01] = .ok (.entRec 1) [] := by decide

theorem test_decode_rejects : decode .lz [] = .error .empty ∧ decode .lz [0x05, 0x48] = .error .truncatedRun ∧
    decode .lz [0x80] = .error .truncatedBref ∧ decode .cacheWord [0, 0, 3] = .error .truncatedCacheWord ∧
    decode .entryHeader [0x80] = .error .truncatedEntryHeader := by decide

/-- A host command is the instruction of its name; it has no word (R71). -/
theorem test_host_commands : HostCmd.reset.instr = .reset ∧ (HostCmd.setHuff [1]).instr = .setHuff [1] ∧
    (HostCmd.addCdic [1]).instr = .addCdic [1] ∧ (HostCmd.decompPalm [1]).instr = .decompPalm [1] ∧
    (HostCmd.decompHuff [1]).instr = .decompHuff [1] ∧ encode .reset = none := by decide

/-- The opcode table's numbering: a control byte; a header; a cache word. -/
theorem test_tableWord : decodeTableWord 8 0x41 = some (.lit 0x41) ∧ decodeTableWord 8 0x80 = some (.bref 0 0) ∧
    decodeTableWord 16 0x8002 = some (.entLit 2) ∧ decodeTableWord 32 0x382 = some (.hcodeT 3 0 2) ∧
    decodeTableWord 7 0 = none := by decide

/-! ### States -/

/-- A DECOMP_PALM of these bytes, at `ip`, with this output so far. -/
def lzAt (input : Bytes) (ip : Nat) (out : Memory) : State :=
  { State.reset with status := .busy, input := input, ip := ip, out := out }

/-- The same state with a capacity. -/
def capped (m : Nat) (s : State) : State := { s with params := { outMax := some m } }

/-- Tables T1 of 95_test_vectors.md section 4, as far as a test reads them. -/
def baseT1 : Vector U32 64 :=
  ((((((((Vector.replicate 64 0xFFFFFFFF).set 2 1).set 3 3).set 4 1).set 5 4).set 6 1).set 7 5).set 8 1).set 9 257

/-- Blobs D0 and D1 of 95_test_vectors.md section 4. -/
def blobD0 : Bytes := [0x00, 0x0A, 0x00, 0x0E, 0x00, 0x11, 0x00, 0x15, 0x00, 0x18, 0x80, 0x02, 0x61, 0x62, 0x80, 0x01,
  0x63, 0x80, 0x02, 0x64, 0x65, 0x00, 0x01, 0xE0, 0x00, 0x01, 0x10]

def blobD1 : Bytes := [0x00, 0x02, 0x80, 0x03, 0x58, 0x59, 0x5A]

/-- A frame over a payload, at bit `bp`. -/
def outer (n bp : Nat) : Frame := ⟨.input, 0, n, bp, none⟩

/-- A DECOMP_HUFF of these bytes before a code at bit `bp`, under the standard setup. -/
def hdAt (input : Bytes) (bp : Nat) : State :=
  { State.reset with
    status := .busy, engine := .hdCode, huffValid := true, baseTable := baseT1, input := input,
    frames := [outer input.length bp], dicts := [blobD0, blobD1], codeLength := 8, clValid := true }

/-- The same with the window latched. -/
def windowAt (input : Bytes) (bp : Nat) (w : U32) : State := { hdAt input bp with hd := { w := w, start := bp } }

/-- The same with a code resolved at bit 0. -/
def codeAt (input : Bytes) (bp : Nat) (code : U32) : State :=
  { hdAt input bp with engine := .hdEntry, hd := { code := code } }

/-- The same with the entry of a code found. -/
def entryAt (dict : Nat) (off : U16) (code : U32) : State :=
  { hdAt [0xE4] 2 with engine := .hdEntry, hd := { code := code, dict := dict, key := code.toNat % 256, off := off } }

/-- A nested frame over the fragment of code 3 (V-HD1, frame 1). -/
def nestedAt (bp : Nat) : State :=
  { hdAt [0xE4, 0x84] 9 with frames := [⟨.dict 0, 23, 1, bp, some 3⟩, outer 2 9], guard := [3] }

/-- A HUFF record of 1304 bytes whose tables are all 01 (R46). -/
def huffRecord : Bytes :=
  [0x48, 0x55, 0x46, 0x46, 0, 0, 0, 24, 0, 0, 0, 24, 0, 0, 4, 24, 0, 0, 0, 0, 0, 0, 0, 0] ++ List.replicate 1280 1

/-- The header of a CDIC record with code length 8 (R46). -/
def cdicHeader : Bytes := [0x43, 0x44, 0x49, 0x43, 0, 0, 0, 16, 0, 0, 0, 1, 0, 0, 0, 8]

/-- What a field is after an outcome. -/
def after {α : Type} (o : Out) (f : State → α) : Option α :=
  match o with
  | .next t => some (f t)
  | .fault _ => none
  | .refused _ => none

theorem cap {s : State} {k : Nat} (h : s.fits k = true) : s.capacityFor k := State.fits_iff.1 h

theorem noCap {s : State} {k : Nat} (h : s.fits k = false) : ¬ s.capacityFor k := fun h' =>
  absurd (State.fits_iff.2 h') (by simp [h])

/-! ### One step of each instruction -/

/-- R83's example. -/
theorem test_lit : after (exec (.lit 0x7A) (lzAt [0x7A] 0 [])) (fun t => (t.out, t.ip)) = some ([0x7A], 1) := by decide

/-- V-A. -/
theorem test_run : after (step (lzAt [0x05, 0x48, 0x65, 0x6C, 0x6C, 0x6F] 0 [])) (fun t => (t.out, t.ip)) =
    some ([0x48, 0x65, 0x6C, 0x6C, 0x6F], 6) := by decide

/-- V-LZ10. -/
theorem test_run_truncated : after (step (lzAt [0x41, 0x03, 0x61, 0x62] 1 [0x41]))
    (fun t => (t.out, t.faultCode, t.faultPos)) = some ([0x41], .lzTruncated, 1) := by decide

/-- V-LZ13: "ab", then `80 14`, gives "ababababa". -/
theorem test_bref : after (step (lzAt [0x61, 0x62, 0x80, 0x14] 2 [0x61, 0x62])) (fun t => (t.out, t.ip)) =
    some ([0x61, 0x62, 0x61, 0x62, 0x61, 0x62, 0x61, 0x62, 0x61], 4) := by decide

/-- V-LZ15: a distance one too far. -/
theorem test_bref_badDistance : after (step (lzAt [0x61, 0x62, 0x63, 0x80, 0x20] 3 [0x61, 0x62, 0x63]))
    (fun t => (t.out, t.faultCode.code, t.faultPos)) = some ([0x61, 0x62, 0x63], 0x01, 3) := by decide

/-- V-B. -/
theorem test_spc : after (step (lzAt [0xC1] 0 [])) (fun t => (t.out, t.ip)) = some ([0x20, 0x41], 1) := by decide

/-- V-LZ23: two bytes or none. -/
theorem test_spc_overflow : after (step (capped 3 (lzAt [0x61, 0x62, 0xC1] 2 [0x61, 0x62])))
    (fun t => (t.out, t.faultCode.code, t.faultPos)) = some ([0x61, 0x62], 0x30, 2) := by decide

/-- V-HD1, the code at bit 4 of E4 84: top bits 01 give code 2. -/
theorem test_hcodeT : after (exec (.hcodeT 3 0 2) (windowAt [0xE4, 0x84] 4 0x48400000))
    (fun t => (t.hd.code, t.hd.codeLen, t.frames)) = some (2, 2, [outer 2 6]) := by decide

/-- V-HD39: the subtraction wraps. -/
theorem test_hcodeT_wraps : after (exec (.hcodeT 1 0 2) (windowAt [0xC0] 0 0xC0000000)) (fun t => t.hd.code) =
    some 4294967294 := by decide

/-- V-HD1, the code at bit 9: the scan goes from 4 to 5, and the code is 257 - 1. -/
theorem test_hcodeB : after (exec (.hcodeB 0 0 4) (windowAt [0xE4, 0x84] 9 0x08000000))
    (fun t => (t.hd.code, t.hd.codeLen, t.frames)) = some (256, 5, [outer 2 14]) := by decide

/-- V-HD12: no length up to 32 passes. -/
theorem test_hcodeB_overflow : after (exec (.hcodeB 0 0 4) (windowAt [0x00] 0 0))
    (fun t => (t.faultCode.code, t.faultPos, t.frames)) = some (0x22, 0, []) := by decide

/-- V-HD1: code 0 is entry "ab" of D0, at offset 10. -/
theorem test_entLit : after (step (codeAt [0xE4, 0x84] 2 0)) (fun t => (t.out, t.hd.off, t.hd.symLen, t.engine)) =
    some ([0x61, 0x62], 10, 0x8002, .hdCode) := by decide

/-- V-HD1: code 3 is the fragment E0 of D0, its frame at 23. -/
theorem test_entRec : after (step (codeAt [0xE4, 0x84] 9 3)) (fun t => (t.guard, t.frames)) =
    some ([3], [⟨.dict 0, 23, 1, 0, some 3⟩, outer 2 9]) := by decide

/-- R163: RESET in FAULT clears the fault, OUT and the configuration. -/
theorem test_reset : after (exec .reset ((hdAt [0xE4] 0).raise .hdBadDict 0))
    (fun t => (t.status, t.faultCode.code, t.dictsCount, t.huffValid)) = some (.idle, 0, 0, false) := by decide

/-- R101: a record of 1304 bytes is accepted; word 255 of the cache table and word 63 of the base table end it. -/
theorem test_setHuff : after (exec (.setHuff huffRecord) State.reset)
    (fun t => (t.huffValid, t.cacheTable[255], t.baseTable[63])) = some (true, 0x01010101, 0x01010101) := by
  decide +kernel

/-- V-S2: one byte short. -/
theorem test_setHuff_short : after (exec (.setHuff (huffRecord.take 1303)) State.reset)
    (fun t => (t.huffValid, t.faultCode.code)) = some (false, 0x10) := by decide +kernel

/-- R105's example. -/
theorem test_addCdic : after (exec (.addCdic (cdicHeader ++ blobD1)) State.reset)
    (fun t => (t.dicts, t.codeLength, t.clValid)) = some ([blobD1], 8, true) := by decide

/-- V-S9: the magic "CIDC" is rejected. -/
theorem test_addCdic_magic : after (exec (.addCdic ([0x43, 0x49, 0x44, 0x43] ++ (cdicHeader ++ blobD1).drop 4))
    State.reset) (fun t => (t.dicts, t.faultCode.code)) = some ([], 0x1A) := by decide

/-- R80: the loop is entered with OUT as it stands. -/
theorem test_decompPalm : after (exec (.decompPalm [0x80, 0x08]) { State.reset with out := [0x78] })
    (fun t => (t.status, t.input, t.ip, t.out)) = some (.busy, [0x80, 0x08], 0, [0x78]) := by decide

/-- V-LZ29: refused in FAULT. -/
theorem test_decompPalm_refused : after (exec (.decompPalm [0x42]) (State.reset.raise .lzBadDistance 1))
    (fun t => (t.status, t.input, t.result)) = some (.fault, [], some (.fault .lzBadDistance)) := by decide

/-- V-HD25: not configured. -/
theorem test_decompHuff : after (exec (.decompHuff [0xC0]) State.reset)
    (fun t => (t.status, t.faultCode.code, t.faultPos)) = some (.fault, 0x20, 0) := by decide

/-- R120: the outermost frame. -/
theorem test_decompHuff_enters : after (exec (.decompHuff [0xC0]) { State.reset with huffValid := true })
    (fun t => (t.status, t.frames, t.guard)) = some (.busy, [outer 1 0], []) := by decide

/-! ### Witnesses

Each theorem shows concrete values that meet all the hypotheses of the obligation it is named after, for each clause, at
a boundary of its range. -/

/-- DecodeOfEncode: a shortest and a longest instruction of each encoding. -/
theorem witness_DecodeOfEncode :
    ((Instr.run [1, 2, 3, 4, 5, 6, 7, 8]).wellFormed = true ∧
      encode (.run [1, 2, 3, 4, 5, 6, 7, 8]) = some (.lz, [8, 1, 2, 3, 4, 5, 6, 7, 8])) ∧
    encode (.bref 2047 7) = some (.lz, [0xBF, 0xFF]) ∧
    encode (.hcodeT 3 0 2) = some (.cacheWord, [0, 0, 3, 0x82]) ∧
    encode (.entRec 0x7FFF) = some (.entryHeader, [0x7F, 0xFF]) := by decide

theorem witness_EncodeOfDecode :
    decode .lz [0xFF, 0] = .ok (.spc 63) [0] ∧ decode .cacheWord [0xFF, 0xFF, 0xFF, 0x7F] = .ok (.hcodeB 0xFFFFFF 3 31) [] ∧
    decode .entryHeader [0xFF, 0xFF] = .ok (.entLit 0x7FFF) [] := by decide

/-- ControlByteClasses: both ends of each class, before 8 bytes. -/
theorem witness_ControlByteClasses : 8 ≤ (List.replicate 8 (0 : Byte)).length ∧
    (9 ≤ (0x09 : Byte).toNat ∧ (0x7F : Byte).toNat ≤ 127) ∧ (1 ≤ (0x01 : Byte).toNat ∧ (0x08 : Byte).toNat ≤ 8) ∧
    (128 ≤ (0x80 : Byte).toNat ∧ (0xBF : Byte).toNat ≤ 191) ∧ 192 ≤ (0xC0 : Byte).toNat := by decide

/-- BrefOperands: the lowest and the highest control byte; distance 0, with its second byte there. -/
theorem witness_BrefOperands :
    (128 ≤ (0x80 : Byte).toNat ∧ (0xBF : Byte).toNat ≤ 191) ∧ decodeLz [0x80, 0x07] = .ok (.bref 0 7) [] ∧
    (lzAt [0x80, 0x07] 0 []).ip + 2 ≤ (lzAt [0x80, 0x07] 0 []).input.length := by decide

theorem witness_SpcRunLitOperands : 192 ≤ (0xC0 : Byte).toNat ∧
    (1 ≤ (0x01 : Byte).toNat ∧ (0x08 : Byte).toNat ≤ 8 ∧ ([7] : Bytes).length = (0x01 : Byte).toNat) ∧
    (9 ≤ (0x09 : Byte).toNat ∧ (0x7F : Byte).toNat ≤ 127) := by decide

/-- MemReadBigEndian: each width at the last address where it fits. -/
theorem witness_MemReadBigEndian : 4 + 1 ≤ ([1, 2, 3, 4, 5] : Memory).length ∧ 3 + 2 ≤ ([1, 2, 3, 4, 5] : Memory).length ∧
    1 + 4 ≤ ([1, 2, 3, 4, 5] : Memory).length := by decide

/-- WindowBits: a stream inside a longer memory, and another memory with the same stream. -/
theorem witness_WindowBits : 1 + 1 ≤ ([0xAA, 0xE0, 0x55] : Memory).length ∧ 31 < 32 ∧
    (([0x00, 0xE0] : Memory).drop 1).take 1 = (([0xAA, 0xE0, 0x55] : Memory).drop 1).take 1 := by decide

/-- LitResult: exactly full, and one byte too many. -/
theorem witness_LitResult : (capped 1 (lzAt [0x41] 0 [])).capacityFor 1 ∧ ¬ (capped 0 (lzAt [0x41] 0 [])).capacityFor 1 :=
  ⟨cap (by decide), noCap (by decide)⟩

theorem witness_RunResult :
    (lzAt [3, 1, 2] 0 []).input.length < (lzAt [3, 1, 2] 0 []).ip + 1 + ([1, 2, 3] : Bytes).length ∧
    (((capped 2 (lzAt [3, 1, 2, 3] 0 [])).ip + 1 + ([1, 2, 3] : Bytes).length ≤
        (capped 2 (lzAt [3, 1, 2, 3] 0 [])).input.length) ∧ ¬ (capped 2 (lzAt [3, 1, 2, 3] 0 [])).capacityFor 3) ∧
    (((capped 3 (lzAt [3, 1, 2, 3] 0 [])).ip + 1 + ([1, 2, 3] : Bytes).length ≤
        (capped 3 (lzAt [3, 1, 2, 3] 0 [])).input.length) ∧ (capped 3 (lzAt [3, 1, 2, 3] 0 [])).capacityFor 3) :=
  ⟨by decide, ⟨by decide, noCap (by decide)⟩, ⟨by decide, cap (by decide)⟩⟩

/-- BrefResult: no second byte; distance 0; distance |OUT| + 1; distance |OUT| with and without room. -/
theorem witness_BrefResult :
    (lzAt [0x80] 0 []).input.length < (lzAt [0x80] 0 []).ip + 2 ∧
    ((lzAt [0x80, 8] 0 [1]).ip + 2 ≤ (lzAt [0x80, 8] 0 [1]).input.length ∧ (0 : BitVec 11).toNat = 0 ∧
      (lzAt [0x80, 8] 0 [1]).out.length < (2 : BitVec 11).toNat) ∧
    (1 ≤ (1 : BitVec 11).toNat ∧ (1 : BitVec 11).toNat ≤ (lzAt [0x80, 8] 0 [1]).out.length ∧
      (capped 4 (lzAt [0x80, 8] 0 [1])).capacityFor 3 ∧ ¬ (capped 3 (lzAt [0x80, 8] 0 [1])).capacityFor 3) :=
  ⟨by decide, by decide, by decide, by decide, cap (by decide), noCap (by decide)⟩

theorem witness_SpcResult : (0xFF : Byte).toNat = 192 + (63 : BitVec 6).toNat ∧
    (capped 2 (lzAt [0xFF] 0 [])).capacityFor 2 ∧ ¬ (capped 1 (lzAt [0xFF] 0 [])).capacityFor 2 :=
  ⟨by decide, cap (by decide), noCap (by decide)⟩

theorem witness_LzStepRunsDecoded : (lzAt [0x41, 0x80, 8] 1 [0x41]).status = .busy ∧
    (lzAt [0x41, 0x80, 8] 1 [0x41]).engine = .lz ∧
    decodeLz ((lzAt [0x41, 0x80, 8] 1 [0x41]).input.drop (lzAt [0x41, 0x80, 8] 1 [0x41]).ip) = .ok (.bref 1 0) [] := by
  decide

/-- LzLoopTurn: a RUN of 8 with 7 bytes left, with 8 and no room, and with 8; both ends of LIT; a BREF with no second
byte, with distance 0, with |OUT| + 1, and with |OUT| with and without room; both ends of SPC. -/
theorem witness_LzLoopTurn :
    ((lzAt [8, 1, 2, 3, 4, 5, 6, 7] 0 []).status = .busy ∧ (lzAt [8, 1, 2, 3, 4, 5, 6, 7] 0 []).engine = .lz ∧
      (lzAt [8, 1, 2, 3, 4, 5, 6, 7] 0 []).input.drop 0 = 8 :: [1, 2, 3, 4, 5, 6, 7] ∧
      ([1, 2, 3, 4, 5, 6, 7] : Bytes).length < (8 : Byte).toNat) ∧
    ((8 : Byte).toNat ≤ ([1, 2, 3, 4, 5, 6, 7, 8] : Bytes).length ∧
      (capped 8 (lzAt [8, 1, 2, 3, 4, 5, 6, 7, 8] 0 [])).capacityFor 8 ∧
      ¬ (capped 7 (lzAt [8, 1, 2, 3, 4, 5, 6, 7, 8] 0 [])).capacityFor 8) ∧
    ((9 ≤ (0x09 : Byte).toNat ∧ (0x7F : Byte).toNat ≤ 127) ∧ (capped 1 (lzAt [0x7F] 0 [])).capacityFor 1 ∧
      ¬ (capped 0 (lzAt [0x7F] 0 [])).capacityFor 1) ∧
    ((lzAt [0x41, 0xBF] 1 []).input.drop 1 = 0xBF :: [] ∧ (0xBF : Byte).toNat ≤ 191 ∧ 128 ≤ (0x80 : Byte).toNat) ∧
    ((0x80 * 256 + 0x07) / 8 % 2048 = 0 ∧ (lzAt [0x80, 0x10] 0 [1]).out.length < (0x80 * 256 + 0x10) / 8 % 2048 ∧
      (0x80 * 256 + 0x08) / 8 % 2048 = (lzAt [0x80, 0x08] 0 [1]).out.length ∧
      (capped 4 (lzAt [0x80, 0x08] 0 [1])).capacityFor 3 ∧ ¬ (capped 3 (lzAt [0x80, 0x08] 0 [1])).capacityFor 3) ∧
    (192 ≤ (0xC0 : Byte).toNat ∧ (capped 2 (lzAt [0xC0] 0 [])).capacityFor 2 ∧
      ¬ (capped 1 (lzAt [0xC0] 0 [])).capacityFor 2) :=
  ⟨by decide, ⟨by decide, cap (by decide), noCap (by decide)⟩, ⟨by decide, cap (by decide), noCap (by decide)⟩,
    by decide, ⟨by decide, by decide, by decide, cap (by decide), noCap (by decide)⟩,
    by decide, cap (by decide), noCap (by decide)⟩

theorem witness_LzLoopEnds : (lzAt [0x41] 1 [0x41]).status = .busy ∧ (lzAt [0x41] 1 [0x41]).engine = .lz ∧
    (lzAt [0x41] 1 [0x41]).input.length ≤ (lzAt [0x41] 1 [0x41]).ip := by decide

theorem witness_DecompPalmMeetsReference : ({ State.reset with out := [0x78] } : State).status = .idle := by decide

/-- LzOutputGrowth: `01 FF`, the lower bound, in two steps after the entry. -/
theorem witness_LzOutputGrowth : ∃ t u, State.reset.status = .idle ∧ exec (.decompPalm [0x01, 0xFF]) State.reset = .next t ∧
    Reaches t 2 u ∧ u.status = .idle ∧ u.out = [0xFF] ∧ (∀ j w, j < 2 → Reaches t j w → w.status = .busy) := by
  refine ⟨_, _, rfl, rfl, rfl, rfl, rfl, fun j w hj h => ?_⟩
  match j, hj with
  | 0, _ => cases h; rfl
  | 1, _ => cases h; rfl

theorem witness_BaseTablePairs : 1 ≤ 1 ∧ 32 ≤ 32 ∧ 2 * 32 - 1 < 64 := by decide

/-- HcodeTResult: a code that ends with its stream. -/
theorem witness_HcodeTResult : (windowAt [0xE4] 6 0).frames = [outer 1 6] ∧ (2 : BitVec 5).toNat ≠ 0 ∧
    (outer 1 6).bp + (2 : BitVec 5).toNat ≤ 8 * (outer 1 6).n ∧ (windowAt [0xE4] 6 0).params.codeT = .formula := by decide

/-- HcodeBResult: code 00001, found at length 5 after length 4 fails, ending with its stream. -/
theorem witness_HcodeBResult : (windowAt [0x01] 3 0x08000000).frames = [outer 1 3] ∧ (4 : BitVec 5).toNat ≠ 0 ∧
    (4 : BitVec 5).toNat ≤ 5 ∧ 5 ≤ 32 ∧ (baseOf baseT1 5).toNat ≤ (0x08000000 : U32).toNat / 2 ^ (32 - 5) ∧
    (∀ j, j < 5 → 4 ≤ j → (0x08000000 : U32).toNat / 2 ^ (32 - j) < (baseOf baseT1 j).toNat) ∧
    (outer 1 3).bp + 5 ≤ 8 * (outer 1 3).n ∧ (windowAt [0x01] 3 0x08000000).params.codeB = .formula := by decide

/-- BaseScanIsLeast: the greatest start, and a window that no length passes. -/
theorem witness_BaseScanIsLeast : (1 ≤ 31 ∧ 31 ≤ 31) ∧ (windowAt [0] 0 0).frames = [outer 1 0] ∧
    (4 : BitVec 5).toNat ≠ 0 ∧
    (∀ j, j ≤ 32 → 4 ≤ j → (0 : U32).toNat / 2 ^ (32 - j) < (baseOf (windowAt [0] 0 0).baseTable j).toNat) := by
  decide +kernel

theorem witness_ZeroCodeLengthFaults : (windowAt [0xC0, 0] 2 0).frames = [outer 2 2] := by decide

/-- StraddlingCodeEndsFrame: two bits of a code with one left, zero or not, under both policies; a scanned code too. -/
theorem witness_StraddlingCodeEndsFrame :
    ((windowAt [0x3F] 7 0x80000000).frames = [outer 1 7] ∧ 8 * (outer 1 7).n < (outer 1 7).bp + 2 ∧
      (2 : BitVec 5).toNat ≠ 0 ∧ (windowAt [0x3F] 7 0x80000000).hd.w ≠ 0 ∧
      (windowAt [0x3F] 7 0x80000000).params.straddlePolicy = .warn) ∧
    ({ windowAt [0x3F] 7 0x80000000 with params := { straddlePolicy := .fault } } : State).params.straddlePolicy = .fault ∧
    (windowAt [0] 0 0).hd.w = 0 ∧
    (8 * (outer 1 4).n < (outer 1 4).bp + 5 ∧ scanBase baseT1 0x08000000 (4 : BitVec 5).toNat = some 5) := by decide

/-- CodeStepRunsDecoded: exactly 8 bits left, all zero; and one bit left that is not. -/
theorem witness_CodeStepRunsDecoded :
    ((hdAt [0xC0, 0x00] 8).status = .busy ∧ (hdAt [0xC0, 0x00] 8).engine = .hdCode ∧
      (hdAt [0xC0, 0x00] 8).frames = [outer 2 8] ∧ (hdAt [0xC0, 0x00] 8).space .input = some [0xC0, 0x00] ∧
      peek32 [0xC0, 0x00] 0 2 8 = some 0 ∧ (outer 2 8).bp < 8 * (outer 2 8).n ∧
      (outer 2 8).bp + 8 ≤ 8 * (outer 2 8).n) ∧
    (peek32 [0x3F] 0 1 7 = some 0x80000000 ∧ (0x80000000 : U32) ≠ 0 ∧ (outer 1 7).bp < 8 * (outer 1 7).n) := by decide

/-- FrameEndsCleanly: an exhausted stream; 7 bits left, all zero; in a nested frame too. -/
theorem witness_FrameEndsCleanly :
    ((hdAt [0xFF] 8).status = .busy ∧ (hdAt [0xFF] 8).engine = .hdCode ∧ (hdAt [0xFF] 8).frames = [outer 1 8] ∧
      8 * (outer 1 8).n ≤ (outer 1 8).bp) ∧
    (8 * (outer 1 1).n < (outer 1 1).bp + 8 ∧ (hdAt [0x80] 1).space .input = some [0x80] ∧
      peek32 [0x80] 0 1 1 = some 0) ∧
    ((nestedAt 4).space (.dict 0) = some blobD0 ∧ peek32 blobD0 23 1 4 = some 0) := by decide

theorem witness_HdCommandEnds : ({ hdAt [0xC0] 2 with frames := [] } : State).status = .busy ∧
    ({ hdAt [0xC0] 2 with frames := [] } : State).engine = .hdCode ∧
    ({ hdAt [0xC0] 2 with frames := [] } : State).frames = [] := by decide

/-- CodeSplit: the shift by 32. -/
theorem witness_CodeSplit : 32 ≤ (32 : U32).toNat := by decide

/-- LookupFaults: no blob; blob 2 of 2; a slot that ends past the blob; a header that does; a body that does. -/
theorem witness_LookupFaults :
    ((codeAt [0xC0] 2 0).status = .busy ∧ (codeAt [0xC0] 2 0).engine = .hdEntry ∧
      ({ codeAt [0xC0] 2 0 with clValid := false } : State).clValid = false ∧
      (codeAt [0xC0] 2 512).dictsCount ≤ splitDict 8 512) ∧
    ((codeAt [0xC0] 2 0).clValid = true ∧ (codeAt [0xC0] 2 257).dicts[splitDict 8 257]? = some blobD1) ∧
    ([0, 2, 0x80, 0] : Memory).length < 2 * splitKey 8 2 + 2 ∧
    (memRead16 [0, 2, 0x80] 0 = some 2 ∧ ([0, 2, 0x80] : Memory).length < (2 : U16).toNat + 2) ∧
    (memRead16 [0, 2, 0x80, 3, 0x58, 0x59] 2 = some 0x8003 ∧
      ([0, 2, 0x80, 3, 0x58, 0x59] : Memory).length < (2 : U16).toNat + 2 + (0x8003 : U16).toNat % 32768) := by decide

/-- EntryStepRunsDecoded: the entry of D1 ends with its blob. -/
theorem witness_EntryStepRunsDecoded : (codeAt [0x08] 5 256).status = .busy ∧ (codeAt [0x08] 5 256).engine = .hdEntry ∧
    (codeAt [0x08] 5 256).clValid = true ∧ (codeAt [0x08] 5 256).dicts[splitDict 8 256]? = some blobD1 ∧
    memRead16 blobD1 (2 * splitKey 8 256) = some 2 ∧ memRead16 blobD1 (2 : U16).toNat = some 0x8003 ∧
    (2 : U16).toNat + 2 + (0x8003 : U16).toNat % 32768 ≤ blobD1.length := by decide

/-- EntLitResult: 128 bytes; 127 without room; 3 that fill OUT and end the blob. -/
theorem witness_EntLitResult : 127 < (128 : BitVec 15).toNat ∧
    ((127 : BitVec 15).toNat ≤ 127 ∧ ¬ (capped 126 (entryAt 1 2 256)).capacityFor 127) ∧
    ((3 : BitVec 15).toNat ≤ 127 ∧ (capped 3 (entryAt 1 2 256)).capacityFor 3 ∧
      (entryAt 1 2 256).dicts[(entryAt 1 2 256).hd.dict]? = some blobD1 ∧
      (entryAt 1 2 256).hd.off.toNat + 2 + (3 : BitVec 15).toNat ≤ blobD1.length) :=
  ⟨by decide, ⟨by decide, noCap (by decide)⟩, by decide, cap (by decide), by decide, by decide⟩

/-- EntRecResult: both guard keys; a key already there; a full guard; the last free place. -/
theorem witness_EntRecResult :
    ((entryAt 0 21 3).params.guardKey = .full ∧ (3 : U32) = (entryAt 0 21 3).hd.code) ∧
    (({ entryAt 0 21 259 with params := { guardKey := .masked } } : State).params.guardKey = .masked ∧
      (3 : U32).toNat = (entryAt 0 21 259).hd.key) ∧
    (3 : U32) ∈ ({ entryAt 0 21 3 with guard := [3] } : State).guard ∧
    ((3 : U32) ∉ (entryAt 0 21 3).guard ∧
      ({ entryAt 0 21 3 with params := { guardCap := some 0 } } : State).params.guardCap = some 0 ∧
      0 ≤ (entryAt 0 21 3).guard.length ∧
      ({ entryAt 0 21 3 with params := { guardCap := some 1 } } : State).params.guardCap = some 1 ∧
      (entryAt 0 21 3).guard.length < 1) := by decide

/-- CallerFramesUntouched: a step inside the nested frame of V-HD1. -/
theorem witness_CallerFramesUntouched : ∃ t, (nestedAt 0).status = .busy ∧ (nestedAt 0).engine ≠ .lz ∧
    (nestedAt 4).frames = ⟨.dict 0, 23, 1, 4, some 3⟩ :: [outer 2 9] ∧ step (nestedAt 4) = .next t ∧
    t.status = .busy ∧ t.frames = [outer 2 9] :=
  ⟨_, rfl, by decide, rfl, rfl, rfl, rfl⟩

theorem witness_RefusedInFault : (State.reset.raise .hdNotConfigured 0).status = .fault ∧
    Instr.addCdic [1] ∈ [Instr.setHuff [1], .addCdic [1], .decompPalm [1], .decompHuff [1]] := by decide

/-- SetHuffLoadsTables: a record of exactly 1304 bytes. -/
theorem witness_SetHuffLoadsTables : State.reset.status ≠ .fault ∧ 1304 ≤ huffRecord.length ∧
    huffRecord.take 4 = [0x48, 0x55, 0x46, 0x46] ∧ memRead huffRecord 4 4 = some 24 ∧
    memRead huffRecord 8 4 = some 24 ∧ memRead huffRecord 12 4 = some 1048 := by decide +kernel

/-- SetHuffFaults: one byte short; then one header byte wrong at a time. -/
theorem witness_SetHuffFaults : (huffRecord.take 1303).length < 1304 ∧
    (1304 ≤ (huffRecord.set 3 0x47).length ∧ (huffRecord.set 3 0x47).take 4 ≠ [0x48, 0x55, 0x46, 0x46]) ∧
    memRead (huffRecord.set 7 23) 4 4 ≠ some 24 ∧ memRead (huffRecord.set 11 28) 8 4 ≠ some 24 ∧
    (memRead (huffRecord.set 15 25) 8 4 = some 24 ∧ memRead (huffRecord.set 15 25) 12 4 ≠ some 1048) := by
  decide +kernel

/-- AddCdicAppendsBlob: the first record, the size 255 below 2^8; and a later one with a smaller code length. -/
theorem witness_AddCdicAppendsBlob : State.reset.status ≠ .fault ∧ State.reset.dictsCount < 32 ∧
    16 ≤ (cdicHeader ++ List.replicate 255 0).length ∧ cdicHeader.take 4 = [0x43, 0x44, 0x49, 0x43] ∧
    memRead (cdicHeader ++ List.replicate 255 0) 4 4 = some 16 ∧
    memRead (cdicHeader ++ List.replicate 255 0) 12 4 = some (8 : U32).toNat ∧
    (8 : U32).toNat = (if State.reset.clValid then min State.reset.codeLength.toNat (8 : U32).toNat
      else (8 : U32).toNat) ∧
    cdicSizeOk State.reset.params ((cdicHeader ++ List.replicate 255 0).length - 16) 8 = true ∧
    (8 : U32).toNat = (if (hdAt [] 0).clValid then min (hdAt [] 0).codeLength.toNat (12 : U32).toNat
      else (12 : U32).toNat) := by decide +kernel

/-- AddCdicFaults: 32 blobs held; 15 bytes; a wrong magic; a wrong length field; a blob of 256 bytes. -/
theorem witness_AddCdicFaults :
    (({ State.reset with dicts := List.replicate 32 [] } : State).status ≠ .fault ∧
      32 ≤ ({ State.reset with dicts := List.replicate 32 [] } : State).dictsCount) ∧
    (State.reset.dictsCount < 32 ∧ (cdicHeader.take 15).length < 16) ∧
    (16 ≤ cdicHeader.length ∧ (cdicHeader.set 1 0x49).take 4 ≠ [0x43, 0x44, 0x49, 0x43]) ∧
    memRead (cdicHeader.set 7 15) 4 4 ≠ some 16 ∧
    (memRead (cdicHeader ++ List.replicate 256 0) 4 4 = some 16 ∧
      memRead (cdicHeader ++ List.replicate 256 0) 12 4 = some (8 : U32).toNat ∧
      (8 : U32).toNat = (if State.reset.clValid then min State.reset.codeLength.toNat (8 : U32).toNat
        else (8 : U32).toNat) ∧
      cdicSizeOk State.reset.params ((cdicHeader ++ List.replicate 256 0).length - 16) 8 = false) := by decide +kernel

theorem witness_DecompPalmEntry : State.reset.status ≠ .fault := by decide

theorem witness_DecompHuffEntry : State.reset.status ≠ .fault ∧ State.reset.huffValid = false ∧
    ({ State.reset with huffValid := true } : State).status ≠ .fault ∧
    ({ State.reset with huffValid := true } : State).huffValid = true := by decide

theorem witness_CommandStep : State.reset.status ≠ .busy ∧ State.reset.host = [] ∧
    ({ State.reset with host := [.reset, .decompPalm []] } : State).host = .reset :: [.decompPalm []] := by decide

/-- FaultsArePrecise: V-LZ16, from a running command. -/
theorem witness_FaultsArePrecise : ∃ t, step (lzAt [0x80, 8] 0 []) = .next t ∧ (lzAt [0x80, 8] 0 []).status ≠ .fault ∧
    (lzAt [0x80, 8] 0 []).status = .busy ∧ t.status = .fault := ⟨_, rfl, by decide, rfl, rfl⟩

theorem witness_FaultIsSticky : ∃ t, (State.reset.raise .lzTruncated 0).status = .fault ∧
    step { State.reset.raise .lzTruncated 0 with host := [.decompPalm [0x41]] } = .next t ∧
    t.result = some (.fault .lzTruncated) := ⟨_, rfl, rfl, rfl⟩

theorem witness_DefaultFaultCodes : ∃ t, (lzAt [0x80, 8] 0 []).params = {} ∧
    (lzAt [0x80, 8] 0 []).faultCode ∉ [FaultName.hdStraddle, .outOverflow, .guardOverflow] ∧
    step (lzAt [0x80, 8] 0 []) = .next t ∧ t.faultCode = .lzBadDistance := ⟨_, rfl, by decide, rfl, rfl⟩

/-- The invariant of a state inside a nested frame, before the entry of code 1 (V-HD1). -/
theorem witness_Inv : ({ nestedAt 4 with engine := .hdEntry, hd := { code := 1, start := 2 } } : State).Inv where
  faultCode_iff := by decide
  faultPos_zero := by decide
  input_empty := by decide
  frames_empty h := absurd ⟨rfl, by decide⟩ h
  guard_stack := by decide
  guard_empty := by decide
  guard_nodup := by decide
  guard_cap _ h := by cases h
  frames_inside := by
    intro f hf
    rcases List.mem_cons.1 hf with rfl | hf
    · exact ⟨blobD0, rfl, by decide, by decide⟩
    · rw [List.mem_singleton.1 hf]
      exact ⟨[0xE4, 0x84], rfl, by decide, by decide⟩
  frames_space := by decide
  entry_frame _ _ := by decide
  configured _ := rfl
  ip_inside _ h := by cases h
  dicts_max := by decide
  clValid_iff := by decide
  out_max _ h := by cases h

/-- StepKeepsInvariant, StepNeverStops and CommandsTerminate: that state, and a step from it that appends "c". -/
theorem witness_StepKeepsInvariant : ∃ s t, s.Inv ∧ s.status = .busy ∧ step s = .next t ∧ t.out = [0x63] :=
  ⟨_, _, witness_Inv, rfl, rfl, rfl⟩

theorem witness_OutOnlyGrows : ∃ t, step (lzAt [0x41] 0 [0x40]) = .next t ∧ t.out = [0x40, 0x41] := ⟨_, rfl, rfl⟩

/-- HdNeverReadsOut: the step that appends "ab". -/
theorem witness_HdNeverReadsOut : ∃ t, (codeAt [0xE4, 0x84] 2 0).status = .busy ∧ (codeAt [0xE4, 0x84] 2 0).engine ≠ .lz ∧
    (codeAt [0xE4, 0x84] 2 0).params.outMax = none ∧ step (codeAt [0xE4, 0x84] 2 0) = .next t ∧ t.out = [0x61, 0x62] :=
  ⟨_, rfl, by decide, rfl, rfl, rfl⟩

/-- StreamInstrWritesNoConfiguration: an LZ instruction that does not fault, and an HD instruction. -/
theorem witness_StreamInstrWritesNoConfiguration :
    (∃ t bs, streamInstr (.lit 0x41) = true ∧ exec (.lit 0x41) (lzAt [0x41] 0 []) = .next t ∧ t.status ≠ .fault ∧
      encode (.lit 0x41) = some (.lz, bs)) ∧
    (∃ t bs, streamInstr (.entRec 1) = true ∧ exec (.entRec 1) (entryAt 0 21 3) = .next t ∧
      Encoding.entryHeader ≠ .lz ∧ encode (.entRec 1) = some (.entryHeader, bs)) :=
  ⟨⟨_, _, rfl, rfl, by decide, rfl⟩, _, _, rfl, rfl, by decide, rfl⟩

theorem witness_ParametersFixed : ∃ t, step { capped 7 State.reset with host := [.reset] } = .next t ∧
    t.params = { outMax := some 7 } := ⟨_, rfl, rfl⟩

/-- BlobsKeptUntilReset: a second record with a smaller code length. -/
theorem witness_BlobsKeptUntilReset :
    after (step { State.reset with
      dicts := [blobD0], codeLength := 9, clValid := true, host := [.addCdic (cdicHeader ++ blobD1)] })
      (fun t => (t.dicts, t.codeLength)) = some ([blobD0, blobD1], 8) := by decide

/-- PlacedWordRuns: one word of each encoding. -/
theorem witness_PlacedWordRuns : decodeTableWord 8 0xC1 = some (.spc 1) ∧ decodeTableWord 16 1 = some (.entRec 1) ∧
    decodeTableWord 32 4 = some (.hcodeB 0 0 4) := by decide

end Sys2Proof.Tests
end

section
/-! Proofs of the scope family: big-endian reads (R8, R41, R45), and the invariant of the unit, first one lemma per
operation on the state, then one per instruction, then the step. -/

namespace Sys2Proof.Machine

open Sys2Proof

/-! ### Big-endian reads -/

/-- A byte after the others is the least significant one (R41). -/
theorem beNat_concat (bs : Bytes) (b : Byte) : beNat (bs ++ [b]) = beNat bs * 256 + b.toNat := by
  simp [beNat]

theorem memRead_zero {m : Memory} {a : Nat} (h : a ≤ m.length) : memRead m a 0 = some 0 := by
  rw [memRead_of_le (by omega), List.take_zero]
  rfl

/-- A read one byte longer puts the next byte below the bytes read before it. -/
theorem memRead_succ {m : Memory} {a n x : Nat} (hx : memRead m a n = some x) (h : a + n < m.length) :
    memRead m a (n + 1) = some (x * 256 + m[a + n].toNat) := by
  have hn : n < (m.drop a).length := by rw [List.length_drop]; omega
  rw [memRead_of_le (by omega)] at hx
  cases hx
  rw [memRead_of_le (by omega), List.take_succ_eq_append_getElem hn, beNat_concat, List.getElem_drop]

/-- Settles O8: a longer read is built from the shorter one by its next byte. -/
theorem memReadBigEndian : Obligations.MemReadBigEndian := by
  intro m a
  have read1 (h : a + 1 ≤ m.length) : memRead m a 1 = some m[a].toNat := by
    simpa using memRead_succ (memRead_zero (a := a) (by omega)) h
  have read2 (h : a + 2 ≤ m.length) : memRead m a 2 = some (m[a].toNat * 256 + m[a + 1].toNat) :=
    memRead_succ (read1 (by omega)) h
  refine ⟨fun n => ?_, read1, read2, fun h => ?_⟩
  · rw [← Option.not_isSome_iff_eq_none, memRead_isSome, Nat.not_le]
  · have read3 := memRead_succ (read2 (by omega)) (by omega)
    rw [memRead_succ read3 (by omega), Option.some_inj]
    ring

/-! ### The invariant under the operations on the state -/

section Invariant

variable {s t u : State}

/-- The invariant reads neither the command queue, the result and the warning flag, nor the latches. -/
theorem State.Inv.with_latches (h : s.Inv) (host : List HostCmd) (result : Option CmdResult) (warn : Bool)
    (lz : LzLatches) (hd : HdLatches) :
    ({ s with host := host, result := result, warnLeftover := warn, lz := lz, hd := hd } : State).Inv := by
  cases h
  constructor <;> assumption

theorem State.Inv.takeCommand (h : s.Inv) (cs : List HostCmd) : (s.takeCommand cs).Inv :=
  h.with_latches cs s.result s.warnLeftover s.lz s.hd

theorem State.Inv.refuse (h : s.Inv) : s.refuse.Inv :=
  h.with_latches s.host (some (.fault s.faultCode)) s.warnLeftover s.lz s.hd

theorem State.Inv.clearWarn (h : s.Inv) : s.clearWarn.Inv :=
  h.with_latches s.host s.result false s.lz s.hd

theorem State.Inv.setWarn (h : s.Inv) : s.setWarn.Inv :=
  h.with_latches s.host s.result true s.lz s.hd

theorem State.Inv.latchControl (h : s.Inv) (c : Byte) : (s.latchControl c).Inv :=
  h.with_latches s.host s.result s.warnLeftover { s.lz with c := c } s.hd

theorem State.Inv.latchBref (h : s.Inv) (v : U16) : (s.latchBref v).Inv :=
  h.with_latches s.host s.result s.warnLeftover (s.latchBref v).lz s.hd

theorem State.Inv.sameButHd (h : s.Inv) (hu : s.SameButHd u) : u.Inv := by
  rw [hu]
  exact h.with_latches s.host s.result s.warnLeftover s.lz u.hd

/-- No fault stands in a state that is not in FAULT (R11, R12). -/
theorem State.Inv.faultCode_none (h : s.Inv) (hs : s.status ≠ .fault) : s.faultCode = .none :=
  Decidable.not_not.1 fun hf => hs (h.faultCode_iff.2 hf)

/-- Only a running DECOMP_HUFF has frames (R22). -/
theorem State.Inv.hdRunning_of_frames (h : s.Inv) (hf : s.frames ≠ []) : s.hdRunning :=
  Classical.not_not.1 fun hr => hf (h.frames_empty hr)

/-- Fault entry drops whatever the invariant says of a running command (R190). -/
theorem State.Inv.raise (h : s.Inv) {f : FaultName} (hf : f ≠ .none) (pos : Nat) : (s.raise f pos).Inv where
  faultCode_iff := by simp [hf]
  faultPos_zero e := absurd e hf
  input_empty _ := rfl
  frames_empty _ := rfl
  guard_stack e := absurd rfl e
  guard_empty _ := rfl
  guard_nodup := List.nodup_nil
  guard_cap _ _ := Nat.zero_le _
  frames_inside _ e := absurd e List.not_mem_nil
  frames_space _ e := absurd e List.not_mem_nil
  entry_frame e := by cases e
  configured e := by cases e.1
  ip_inside e := by cases e
  dicts_max := h.dicts_max
  clValid_iff := h.clValid_iff
  out_max := h.out_max

/-- A command ends in IDLE when its frames have all returned (R162, R22). -/
theorem State.Inv.finish (h : s.Inv) (hs : s.status ≠ .fault) (hf : s.frames = []) (r : CmdResult) :
    (s.finish r).Inv where
  faultCode_iff := by simp [h.faultCode_none hs]
  faultPos_zero := h.faultPos_zero
  input_empty _ := rfl
  frames_empty _ := hf
  guard_stack e := absurd hf e
  guard_empty := h.guard_empty
  guard_nodup := h.guard_nodup
  guard_cap := h.guard_cap
  frames_inside f e := by simp [hf] at e
  frames_space := h.frames_space
  entry_frame e := by cases e
  configured e := by cases e.1
  ip_inside e := by cases e
  dicts_max := h.dicts_max
  clValid_iff := h.clValid_iff
  out_max := h.out_max

/-! Host commands (R80, R103, R108, R120, R163). -/

theorem State.Inv.loadTables (h : s.Inv) (cache : Vector U32 256) (base : Vector U32 64) :
    (s.loadTables cache base).Inv :=
  { h with configured := fun _ => rfl }

/-- A blob put after the others moves none of them, so every frame stays inside its space (R19). -/
theorem State.Inv.addDict (h : s.Inv) (hd : s.dictsCount < Config.dictMax) (blob : Bytes) (cl : U32) :
    (s.addDict blob cl).Inv :=
  { h with
    frames_inside := by
      intro f hf
      obtain ⟨m, hm, hn, hbp⟩ := h.frames_inside f hf
      refine ⟨m, ?_, hn, hbp⟩
      cases e : f.space with
      | input => rw [e] at hm; exact hm
      | dict d =>
        rw [e] at hm
        have hlt : d < s.dicts.length := (List.getElem?_eq_some_iff.1 hm).1
        exact (List.getElem?_append_left hlt).trans hm
    dicts_max := by simpa [State.dictsCount] using hd
    clValid_iff := by simp }

theorem State.Inv.startLz (h : s.Inv) (hb : s.status ≠ .busy) (hs : s.status ≠ .fault) (payload : Bytes) :
    (s.begin.startLz payload).Inv :=
  have hf : s.frames = [] := h.frames_empty fun hr => hb hr.1
  { h with
    faultCode_iff := by simp [h.faultCode_none hs]
    input_empty := fun e => absurd rfl e
    frames_empty := fun _ => hf
    frames_inside := fun f e => by simp [hf] at e
    entry_frame := fun _ e => by cases e
    configured := fun e => absurd rfl e.2
    ip_inside := fun _ _ => Nat.zero_le _ }

theorem State.Inv.startHd (h : s.Inv) (hs : s.status ≠ .fault) (hv : s.huffValid = true) (payload : Bytes) :
    (s.begin.startHd payload).Inv :=
  { h with
    faultCode_iff := by simp [h.faultCode_none hs]
    input_empty := fun e => absurd rfl e
    frames_empty := fun e => absurd ⟨rfl, by simp⟩ e
    guard_stack := fun _ => rfl
    guard_empty := fun _ => rfl
    guard_nodup := List.nodup_nil
    guard_cap := fun _ _ => Nat.zero_le _
    frames_inside := by
      intro f e
      rw [List.mem_singleton.1 e]
      exact ⟨payload, rfl, by simp [outerFrame], Nat.zero_le _⟩
    frames_space := by
      intro f e
      rw [List.mem_singleton.1 e]
      exact ⟨fun _ => rfl, fun _ => rfl⟩
    entry_frame := fun _ e => by cases e
    configured := fun _ => hv
    ip_inside := fun _ e => by cases e }

/-! Stream instructions (R83, R122, R127, R146). -/

theorem State.Inv.appendOut (h : s.Inv) {bs : Bytes} (hf : s.fits bs.length = true) : (s.appendOut bs).Inv :=
  { h with out_max := fun m e => by simpa [State.outLen] using State.fits_iff.1 hf m e }

theorem State.Inv.advance (h : s.Inv) {k : Nat} (hk : s.ip + k ≤ s.input.length) : (s.advance k).Inv :=
  { h with ip_inside := fun _ _ => hk }

/-- The loop of a frame goes on: only the engine field moves, inside the HD engine. -/
theorem State.Inv.resume (h : s.Inv) (hf : s.frames ≠ []) : s.resume.Inv :=
  have hr := h.hdRunning_of_frames hf
  { h with
    frames_empty := fun e => absurd ⟨hr.1, by simp⟩ e
    entry_frame := fun _ e => by cases e
    configured := fun _ => h.configured hr
    ip_inside := fun _ e => by cases e }

/-- The innermost of several frames has the newest key of the guard, and the keys below are those of the frames below;
a frame alone has no key (R22). -/
theorem State.Inv.guard_of_frames_cons (h : s.Inv) {f : Frame} {rest : List Frame} (e : s.frames = f :: rest) :
    (rest = [] ∧ f.key0 = none ∧ s.guard = []) ∨
      ∃ g gs, f.key0 = some g ∧ s.guard = g :: gs ∧ rest.map Frame.key0 = gs.map some ++ [none] := by
  have hst := h.guard_stack (by simp [e])
  rw [e, List.map_cons] at hst
  cases hg : s.guard with
  | nil =>
    rw [hg] at hst
    obtain ⟨hk, hr⟩ := List.cons_eq_cons.1 hst
    exact .inl ⟨List.map_eq_nil_iff.1 hr, hk, rfl⟩
  | cons g gs =>
    rw [hg] at hst
    obtain ⟨hk, hr⟩ := List.cons_eq_cons.1 hst
    exact .inr ⟨g, gs, hk, rfl, hr⟩

/-- The frames below a returning frame keep their keys, which are the guard without the key of that frame (R146, R147).
-/
theorem State.Inv.returnFrame (h : s.Inv) : s.returnFrame.Inv := by
  cases e : s.frames with
  | nil => simpa [State.returnFrame, e] using h
  | cons f rest =>
    have hr := h.hdRunning_of_frames (by simp [e])
    have hsub : ∀ x ∈ rest, x ∈ s.frames := fun x hx => by simp [e, hx]
    rw [State.returnFrame_cons e]
    have hpop : ∃ gs, (if f.key0.isSome then s.guard.tail else s.guard) = gs ∧ gs <:+ s.guard ∧
        (rest ≠ [] → rest.map Frame.key0 = gs.map some ++ [none]) ∧ (rest = [] → gs = []) := by
      rcases h.guard_of_frames_cons e with ⟨hrest, hk, hg⟩ | ⟨g, gs, hk, hg, hst⟩
      · exact ⟨[], by simp [hk, hg], List.nil_suffix, fun hne => absurd hrest hne, fun _ => rfl⟩
      · refine ⟨gs, by simp [hk, hg], hg ▸ List.suffix_cons g gs, fun _ => hst, fun hrest => ?_⟩
        simp [hrest] at hst
    obtain ⟨gs, hgs, hsuf, hst, hnil⟩ := hpop
    rw [hgs]
    exact
      { h with
        frames_empty := fun hn => absurd ⟨hr.1, by simp⟩ hn
        guard_stack := hst
        guard_empty := hnil
        guard_nodup := h.guard_nodup.sublist hsuf.sublist
        guard_cap := fun m hm => hsuf.length_le.trans (h.guard_cap m hm)
        frames_inside := fun x hx => h.frames_inside x (hsub x hx)
        frames_space := fun x hx => h.frames_space x (hsub x hx)
        entry_frame := fun _ hn => by cases hn
        configured := fun _ => h.configured hr
        ip_inside := fun _ hn => by cases hn }

/-- A code that fits leaves the position of its frame inside the stream (R127). -/
theorem State.Inv.consume (h : s.Inv) {f : Frame} {rest : List Frame} (e : s.frames = f :: rest) {L : Nat}
    (hL : L ≤ f.rem) : (s.consume f rest L).Inv :=
  have hr := h.hdRunning_of_frames (by simp [e])
  { h with
    frames_empty := fun hn => absurd ⟨hr.1, by simp⟩ hn
    guard_stack := fun _ => by simpa [e] using h.guard_stack (by simp [e])
    guard_empty := fun hn => by cases hn
    frames_inside := by
      intro x hx
      rcases List.mem_cons.1 hx with rfl | hx
      · obtain ⟨m, hm, hn, hbp⟩ := h.frames_inside f (by simp [e])
        exact ⟨m, hm, hn, by unfold Frame.rem at hL; dsimp only; omega⟩
      · exact h.frames_inside x (by simp [e, hx])
    frames_space := by
      intro x hx
      rcases List.mem_cons.1 hx with rfl | hx
      · exact h.frames_space f (by simp [e])
      · exact h.frames_space x (by simp [e, hx])
    entry_frame := fun _ _ hn => by cases hn
    configured := fun _ => h.configured hr
    ip_inside := fun _ hn => by cases hn }

/-- A call with a new key over a fragment inside its blob, when the guard has room (R146). -/
theorem State.Inv.pushFrame (h : s.Inv) (hf : s.frames ≠ []) {g : U32} (hg : g ∉ s.guard)
    (hroom : s.guardHasRoom = true) {d base n : Nat} {D : Memory} (hD : s.dicts[d]? = some D)
    (hn : base + n ≤ D.length) : (s.pushFrame g d base n).Inv :=
  have hr := h.hdRunning_of_frames hf
  { h with
    frames_empty := fun e => absurd ⟨hr.1, by simp⟩ e
    guard_stack := fun _ => by simp [h.guard_stack hf]
    guard_empty := fun e => by cases e
    guard_nodup := List.nodup_cons.2 ⟨hg, h.guard_nodup⟩
    guard_cap := State.guardHasRoom_iff.1 hroom
    frames_inside := by
      intro x hx
      rcases List.mem_cons.1 hx with rfl | hx
      · exact ⟨D, hD, hn, Nat.zero_le _⟩
      · exact h.frames_inside x hx
    frames_space := by
      intro x hx
      rcases List.mem_cons.1 hx with rfl | hx
      · simp
      · exact h.frames_space x hx
    entry_frame := fun _ e => by cases e
    configured := fun _ => h.configured hr
    ip_inside := fun _ e => by cases e }

/-! ### The invariant under the instructions -/

/-- The reset state meets the invariant under any parameters and with any commands pending (R24, R163, R211). -/
theorem State.reset_inv (params : Params) (host : List HostCmd) (result : Option CmdResult) :
    ({ State.reset with params := params, host := host, result := result } : State).Inv where
  faultCode_iff := by simp [State.reset]
  faultPos_zero _ := rfl
  input_empty _ := rfl
  frames_empty _ := rfl
  guard_stack e := absurd rfl e
  guard_empty _ := rfl
  guard_nodup := List.nodup_nil
  guard_cap _ _ := Nat.zero_le _
  frames_inside _ e := absurd e List.not_mem_nil
  frames_space _ e := absurd e List.not_mem_nil
  entry_frame e := by cases e
  configured e := by cases e.1
  ip_inside e := by cases e
  dicts_max := Nat.zero_le _
  clValid_iff := by simp [State.reset]
  out_max _ _ := Nat.zero_le _

/-- The host's commands start where none runs (R219); an accepted one either ends in this step or enters its loop. -/
theorem exec_hostCmd_keeps_inv (h : s.Inv) (hb : s.status ≠ .busy) {c : HostCmd} (hx : exec c.instr s = .next t) :
    t.Inv := by
  have hfr : s.frames = [] := h.frames_empty fun hr => hb hr.1
  cases c with
  | reset => cases hx; exact State.reset_inv ..
  | setHuff record =>
    rcases enterCommand_eq_next hx with ⟨_, rfl⟩ | ⟨hs, hx⟩
    · exact h.refuse
    rcases setHuffBody_eq_next hx with ⟨f, hf, rfl⟩ | ⟨cache, base, _, _, rfl⟩
    · exact h.raise hf 0
    · exact (h.loadTables cache base).finish hs hfr .ok
  | addCdic record =>
    rcases enterCommand_eq_next hx with ⟨_, rfl⟩ | ⟨hs, hx⟩
    · exact h.refuse
    rcases addCdicBody_eq_next hx with ⟨f, hf, rfl⟩ | ⟨hd, _, cl, _, _, rfl⟩
    · exact h.raise hf 0
    · exact (h.addDict hd _ _).finish hs hfr .ok
  | decompPalm payload =>
    have hx : execDecompPalm payload s = .next t := hx
    rcases enterCommand_eq_next hx with ⟨_, rfl⟩ | ⟨hs, hx⟩
    · exact h.refuse
    · cases hx
      exact h.startLz hb hs payload
  | decompHuff payload =>
    rcases enterCommand_eq_next hx with ⟨_, rfl⟩ | ⟨hs, hx⟩
    · exact h.refuse
    rcases decompHuffBody_eq_next hx with ⟨hv, rfl⟩ | ⟨_, rfl⟩
    · exact h.clearWarn.startHd hs hv payload
    · exact h.clearWarn.raise (by simp) 0

theorem emitLz_keeps_inv (h : s.Inv) {bs : Bytes} {size : Nat} (hip : s.ip + size ≤ s.input.length)
    (hx : emitLz bs size s = .next t) : t.Inv := by
  rcases emitLz_eq_next hx with ⟨hf, rfl⟩ | ⟨_, rfl⟩
  · exact (h.appendOut hf).advance hip
  · exact h.raise (by simp) _

theorem execRun_keeps_inv (h : s.Inv) {data : Bytes} (hx : execRun data s = .next t) : t.Inv := by
  rcases execRun_eq_next hx with ⟨_, rfl⟩ | ⟨hip, hf, rfl⟩ | ⟨_, _, rfl⟩
  · exact h.raise (by simp) _
  · exact (h.appendOut hf).advance (by simpa [Nat.add_assoc] using hip)
  · exact h.raise (by simp) _

theorem copyBref_keeps_inv (h : s.Inv) (hip : s.ip + 2 ≤ s.input.length) (hx : copyBref s = .next t) : t.Inv := by
  rcases copyBref_eq_next hx with ⟨_, rfl⟩ | ⟨_, _, hf, out, hc, rfl⟩ | ⟨_, _, _, rfl⟩
  · exact h.raise (by simp) _
  · obtain ⟨bs, rfl, hl⟩ := copyBack_extends hc
    rw [← hl] at hf
    exact (h.appendOut hf).advance hip
  · exact h.raise (by simp) _

theorem execBref_keeps_inv (h : s.Inv) {dist : BitVec 11} {lenField : BitVec 3}
    (hx : execBref dist lenField s = .next t) : t.Inv := by
  rcases execBref_eq_next hx with ⟨_, rfl⟩ | ⟨hip, hx⟩
  · exact h.raise (by simp) _
  · exact copyBref_keeps_inv (h.latchBref _) hip hx

/-- The LZ instruction at `ip`, whichever of the four it is (R81). -/
theorem exec_lz_keeps_inv (h : s.Inv) (hip : s.ip < s.input.length) {bs rest : Bytes} {i : Instr}
    (hi : decodeLz bs = .ok i rest) (hx : exec i s = .next t) : t.Inv := by
  rcases decodeLz_ok_cases hi with ⟨_, data, rfl, _⟩ | ⟨c, rfl, _⟩ | ⟨c, b, rfl, _⟩ | ⟨c, rfl, _⟩
  · exact execRun_keeps_inv h hx
  · exact emitLz_keeps_inv h hip hx
  · exact execBref_keeps_inv h hx
  · exact emitLz_keeps_inv h hip hx

theorem consumeCode_keeps_inv (h : s.Inv) {f : Frame} {rest : List Frame} (e : s.frames = f :: rest) {L : Nat}
    {code : U32} (hx : consumeCode f rest L code s = .next t) : t.Inv := by
  have hl : (s.latchCode L code f.bp).Inv := h.sameButHd rfl
  rcases consumeCode_eq_next hx with ⟨hL, rfl⟩ | ⟨_, _, rfl⟩ | ⟨_, _, _, rfl⟩ | ⟨_, _, _, rfl⟩
  · exact hl.consume e hL
  · exact hl.returnFrame
  · exact hl.setWarn.returnFrame
  · exact hl.raise (by simp) _

/-- Both forms of an HD code (R124, R125). -/
theorem exec_code_keeps_inv (h : s.Inv) {v : U32} (hx : exec (decodeCacheWord v) s = .next t) : t.Inv := by
  rcases decodeCacheWord_cases v with ⟨_, hi⟩ | ⟨_, hi⟩ <;> rw [hi] at hx
  · obtain ⟨f, rest, e, ⟨_, rfl⟩ | ⟨_, hx⟩⟩ := withCode_eq_next hx
    · exact h.raise (by simp) _
    · exact consumeCode_keeps_inv h e hx
  · obtain ⟨f, rest, e, ⟨_, rfl⟩ | ⟨_, _, rfl⟩ | ⟨_, L, _, hx⟩⟩ := execHcodeB_eq_next (u := cacheMaxcode v) (g := cacheIgnored v) hx
    · exact h.raise (by simp) _
    · exact h.raise (by simp) _
    · exact consumeCode_keeps_inv h e hx

theorem execEntLit_keeps_inv (h : s.Inv) (hfr : s.frames ≠ []) {len : BitVec 15} (hx : execEntLit len s = .next t) :
    t.Inv := by
  rcases execEntLit_eq_next hx with ⟨_, rfl⟩ | ⟨_, hf, body, hbody, rfl⟩ | ⟨_, _, rfl⟩
  · exact h.raise (by simp) _
  · obtain ⟨_, _, _, _, hl⟩ := State.entryBody_eq_some hbody
    rw [← hl] at hf
    exact (h.appendOut hf).resume hfr
  · exact h.raise (by simp) _

theorem execEntRec_keeps_inv (h : s.Inv) (hfr : s.frames ≠ []) {len : BitVec 15} {D : Memory}
    (hD : s.dicts[s.hd.dict]? = some D) (hn : s.hd.off.toNat + 2 + len.toNat ≤ D.length)
    (hx : execEntRec len s = .next t) : t.Inv := by
  rcases execEntRec_eq_next hx with ⟨_, rfl⟩ | ⟨hg, hroom, rfl⟩ | ⟨_, _, rfl⟩
  · exact h.raise (by simp) _
  · exact h.pushFrame hfr hg hroom hD hn
  · exact h.raise (by simp) _

/-- Both kinds of entry, in the blob where the lookup found them (R145, R146). -/
theorem exec_entry_keeps_inv (h : s.Inv) (hfr : s.frames ≠ []) {x : U16} {D : Memory}
    (hD : s.dicts[s.hd.dict]? = some D) (hn : s.hd.off.toNat + 2 + (entryLen x).toNat ≤ D.length)
    (hx : exec (decodeEntryHeader x) s = .next t) : t.Inv := by
  rcases decodeEntryHeader_cases x with ⟨_, hi⟩ | ⟨_, hi⟩ <;> rw [hi] at hx
  · exact execEntLit_keeps_inv h hfr hx
  · exact execEntRec_keeps_inv h hfr hD hn hx

/-! ### The invariant under a step -/

theorem step_command_keeps_inv (h : s.Inv) (hb : s.status ≠ .busy) (hx : step s = .next t) : t.Inv := by
  rcases step_command hb hx with ⟨_, rfl⟩ | ⟨c, cs, _, hx⟩
  · exact h
  · exact exec_hostCmd_keeps_inv (h.takeCommand cs) hb hx

theorem step_lz_keeps_inv (h : s.Inv) (hb : s.status = .busy) (he : s.engine = .lz) (hx : step s = .next t) :
    t.Inv := by
  rcases step_lz hb he hx with ⟨_, rfl⟩ | ⟨hip, i, rest, hi, hx⟩
  · exact h.finish (by simp [hb]) (h.frames_empty fun hr => hr.2 he) .ok
  · exact exec_lz_keeps_inv (h.latchControl s.input[s.ip]) hip hi hx

theorem step_hdCode_keeps_inv (h : s.Inv) (hb : s.status = .busy) (he : s.engine = .hdCode) (hx : step s = .next t) :
    t.Inv := by
  rcases step_hdCode hb he hx with ⟨hfr, rfl⟩ | ⟨f, rest, _, rfl | ⟨m, w, _, _, _, _, hx⟩⟩
  · exact h.finish (by simp [hb]) hfr _
  · exact h.returnFrame
  · have hl : (s.latchWindow w s.cacheTable[cacheIndex w] f.bp).Inv := h.sameButHd rfl
    exact exec_code_keeps_inv hl hx

theorem step_hdEntry_keeps_inv (h : s.Inv) (hb : s.status = .busy) (he : s.engine = .hdEntry)
    (hx : step s = .next t) : t.Inv := by
  rcases step_hdEntry hb he hx with ⟨f, u, hf, hu, rfl⟩ |
      ⟨D, x, u, _, hu, _, _, hD, _, _, _, _, hn, _, _, hx⟩
  · exact (h.sameButHd hu).raise hf _
  · have hfr : u.frames ≠ [] := by rw [hu]; exact h.entry_frame hb he
    have hDu : u.dicts[u.hd.dict]? = some D := by rw [hu]; exact hD
    exact exec_entry_keeps_inv (h.sameButHd hu) hfr hDu hn hx

end Invariant

/-- Settles O49, by what the unit is doing: waiting for the host, or in one of its three loops. -/
theorem stepKeepsInvariant : Obligations.StepKeepsInvariant := by
  intro s t h hx
  by_cases hb : s.status = .busy
  · cases he : s.engine with
    | lz => exact step_lz_keeps_inv h hb he hx
    | hdCode => exact step_hdCode_keeps_inv h hb he hx
    | hdEntry => exact step_hdEntry_keeps_inv h hb he hx
  · exact step_command_keeps_inv h hb hx

end Sys2Proof.Machine
end

section
/-! Proofs of the state family (10_state.md): the tables and their words, the host's queue and the reset state, the HD
engine beside OUT, and what a step can write. -/

namespace Sys2Proof.Machine

open Sys2Proof

/-! ### The tables and their words -/

theorem toList_getD_eq_getElem (t : Vector U32 64) {i : Nat} (hi : i < 64) : t.toList.getD i 0 = t[i] := by
  rw [List.getD_eq_getElem _ _ (by simpa using hi), Vector.getElem_toList]

/-- Settles O19: both entries of a pair lie inside the table. -/
theorem baseTablePairs : Obligations.BaseTablePairs := fun t _ _ _ =>
  ⟨toList_getD_eq_getElem t (by omega), toList_getD_eq_getElem t (by omega)⟩

theorem cacheMaxcode_toNat (v : U32) : (cacheMaxcode v).toNat = v.toNat / 256 := by
  rw [cacheMaxcode, BitVec.extractLsb'_toNat, Nat.shiftRight_eq_div_pow]
  omega

theorem cacheIgnored_toNat (v : U32) : (cacheIgnored v).toNat = v.toNat / 32 % 4 := by
  rw [cacheIgnored, BitVec.extractLsb'_toNat, Nat.shiftRight_eq_div_pow]

theorem cacheLen_toNat (v : U32) : (cacheLen v).toNat = v.toNat % 32 := by
  rw [cacheLen, BitVec.extractLsb'_toNat, Nat.shiftRight_zero]

theorem cacheTerm_iff (v : U32) : cacheTerm v = true ↔ v.toNat / 128 % 2 = 1 := by
  rw [cacheTerm, BitVec.getLsbD, Nat.testBit_eq_decide_div_mod_eq, decide_eq_true_iff]

theorem entryLen_toNat (h : U16) : (entryLen h).toNat = h.toNat % 32768 := by
  rw [entryLen, BitVec.extractLsb'_toNat, Nat.shiftRight_zero]

/-- Bit 15 is the most significant one, so it is set from 32768 on (R68). -/
theorem entryLit_iff (h : U16) : entryLit h = true ↔ 32768 ≤ h.toNat := by
  rw [entryLit, BitVec.getLsbD, Nat.testBit_eq_decide_div_mod_eq, decide_eq_true_iff]
  omega

/-- Settles O7: the decoders test one bit, and cut the fields out at fixed positions. -/
theorem tableWordFields : Obligations.TableWordFields := by
  refine ⟨fun v => ⟨cacheMaxcode v, cacheIgnored v, cacheLen v, cacheMaxcode_toNat v, cacheIgnored_toNat v,
    cacheLen_toNat v, ?_⟩, fun h => ⟨entryLen h, entryLen_toNat h, ?_⟩⟩
  · simp only [decodeCacheWord, cacheTerm_iff]
  · simp only [decodeEntryHeader, entryLit_iff]

/-! ### The host's commands -/

/-- The host is heard while no command runs (R10). -/
theorem fetch_of_not_busy {s : State} (hs : s.status ≠ .busy) : fetch s = fetchCommand s := by
  unfold fetch
  cases e : s.status <;> simp_all

/-- Settles O43. -/
theorem commandStep : Obligations.CommandStep := by
  intro s hs
  constructor
  · intro c cs hc
    have hf : fetch s = .run c.instr (s.takeCommand cs) := by rw [fetch_of_not_busy hs, fetchCommand, hc]
    rw [step, hf]
    rfl
  · intro hnil
    have hf : fetch s = .stop (.next s) := by rw [fetch_of_not_busy hs, fetchCommand, hnil]
    rw [step, hf]

/-- Settles O48: the reset state with the default parameters and no command pending. -/
theorem resetMeetsInvariant : Obligations.ResetMeetsInvariant :=
  State.reset_inv {} [] none

/-! ### The HD engine beside OUT

`prependOut p` puts bytes in front of OUT and changes nothing else. Every operation of the HD engine commutes with it;
so does each meaning and each fetch, and therefore the step. -/

section PrependOut

/-- The state as it would be had earlier commands left `p` in front of OUT (R14). -/
def State.prependOut (p : Bytes) (s : State) : State := { s with out := p ++ s.out }

/-- The same bytes put in front of OUT in the state an outcome answers. -/
def outcomePrependOut (p : Bytes) : Out → Out
  | .next s => .next (s.prependOut p)
  | .fault r => .fault r
  | .refused r => .refused r

@[simp] theorem outcomePrependOut_next (p : Bytes) (s : State) :
    outcomePrependOut p (.next s) = .next (s.prependOut p) := rfl

/-- The same bytes put in front of OUT in the state a fetch answers. -/
def Fetched.prependOut (p : Bytes) : Fetched → Fetched
  | .run i s => .run i (s.prependOut p)
  | .stop o => .stop (outcomePrependOut p o)

variable (p : Bytes) (s : State)

/-! What the HD engine reads of a state does not change. -/

@[simp] theorem State.prependOut_params : (s.prependOut p).params = s.params := rfl
@[simp] theorem State.prependOut_status : (s.prependOut p).status = s.status := rfl
@[simp] theorem State.prependOut_engine : (s.prependOut p).engine = s.engine := rfl
@[simp] theorem State.prependOut_baseTable : (s.prependOut p).baseTable = s.baseTable := rfl
@[simp] theorem State.prependOut_dictsCount : (s.prependOut p).dictsCount = s.dictsCount := rfl
@[simp] theorem State.prependOut_clValid : (s.prependOut p).clValid = s.clValid := rfl
@[simp] theorem State.prependOut_frames : (s.prependOut p).frames = s.frames := rfl
@[simp] theorem State.prependOut_guard : (s.prependOut p).guard = s.guard := rfl
@[simp] theorem State.prependOut_hd : (s.prependOut p).hd = s.hd := rfl
@[simp] theorem State.prependOut_space (S : Space) : (s.prependOut p).space S = s.space S := by cases S <;> rfl
@[simp] theorem State.prependOut_guardKeyOf : (s.prependOut p).guardKeyOf = s.guardKeyOf := rfl
@[simp] theorem State.prependOut_guardHasRoom : (s.prependOut p).guardHasRoom = s.guardHasRoom := rfl
@[simp] theorem State.prependOut_entryBody (k : Nat) : (s.prependOut p).entryBody k = s.entryBody k := rfl

/-! Its operations on the state commute with the change. -/

@[simp] theorem State.raise_prependOut (f : FaultName) (pos : Nat) :
    (s.prependOut p).raise f pos = (s.raise f pos).prependOut p := rfl

@[simp] theorem State.setWarn_prependOut : (s.prependOut p).setWarn = s.setWarn.prependOut p := rfl

@[simp] theorem State.returnFrame_prependOut : (s.prependOut p).returnFrame = s.returnFrame.prependOut p := by
  cases e : s.frames with
  | nil => simp [State.returnFrame, e]
  | cons f rest =>
    rw [State.returnFrame_cons e, State.returnFrame_cons (s := s.prependOut p) e]
    rfl

@[simp] theorem State.pushFrame_prependOut (g : U32) (d base n : Nat) :
    (s.prependOut p).pushFrame g d base n = (s.pushFrame g d base n).prependOut p := rfl

@[simp] theorem State.resume_prependOut : (s.prependOut p).resume = s.resume.prependOut p := rfl

@[simp] theorem State.appendOut_prependOut (bs : Bytes) :
    (s.prependOut p).appendOut bs = (s.appendOut bs).prependOut p := by
  simp [State.appendOut, State.prependOut]

@[simp] theorem State.latchCode_prependOut (L : Nat) (code : U32) (pos : Nat) :
    (s.prependOut p).latchCode L code pos = (s.latchCode L code pos).prependOut p := rfl

@[simp] theorem State.splitCode_prependOut : (s.prependOut p).splitCode = s.splitCode.prependOut p := by
  unfold State.splitCode
  rw [State.prependOut_clValid]
  split <;> rfl

/-- Without a capacity every append fits (R184). -/
theorem State.fits_of_outMax_none {s : State} (hcap : s.params.outMax = none) (k : Nat) : s.fits k = true :=
  State.fits_iff.2 fun m hm => by simp [hcap] at hm

/-! The meanings of the HD instructions. -/

theorem straddle_prependOut (f : Frame) : straddle f (s.prependOut p) = outcomePrependOut p (straddle f s) := by
  unfold straddle
  simp only [State.prependOut_hd, State.prependOut_params, State.returnFrame_prependOut, State.raise_prependOut,
    State.setWarn_prependOut]
  split
  · rfl
  · split <;> rfl

theorem consumeCode_prependOut (f : Frame) (rest : List Frame) (L : Nat) (code : U32) :
    consumeCode f rest L code (s.prependOut p) = outcomePrependOut p (consumeCode f rest L code s) := by
  unfold consumeCode
  rw [State.latchCode_prependOut, straddle_prependOut]
  split <;> rfl

theorem withCode_prependOut (len : BitVec 5) {k k' : Frame → List Frame → Out}
    (hk : ∀ f rest, k' f rest = outcomePrependOut p (k f rest)) :
    withCode len (s.prependOut p) k' = outcomePrependOut p (withCode len s k) := by
  unfold withCode
  rw [State.prependOut_frames]
  cases s.frames with
  | nil => rfl
  | cons f rest =>
    dsimp only
    split
    · rfl
    · exact hk f rest

theorem execHcodeT_prependOut (maxcode : BitVec 24) (ignored : BitVec 2) (len : BitVec 5) :
    execHcodeT maxcode ignored len (s.prependOut p) = outcomePrependOut p (execHcodeT maxcode ignored len s) :=
  withCode_prependOut p s len fun f rest => consumeCode_prependOut p s f rest _ _

theorem execHcodeB_prependOut (unused : BitVec 24) (ignored : BitVec 2) (len : BitVec 5) :
    execHcodeB unused ignored len (s.prependOut p) = outcomePrependOut p (execHcodeB unused ignored len s) :=
  withCode_prependOut p s len fun f rest => by
    rw [State.prependOut_baseTable, State.prependOut_hd]
    cases scanBase s.baseTable s.hd.w len.toNat with
    | none => rfl
    | some L => exact consumeCode_prependOut p s f rest _ _

theorem execEntLit_prependOut (hcap : s.params.outMax = none) (len : BitVec 15) :
    execEntLit len (s.prependOut p) = outcomePrependOut p (execEntLit len s) := by
  unfold execEntLit
  rw [if_pos (State.fits_of_outMax_none hcap _), if_pos (State.fits_of_outMax_none (s := s.prependOut p) hcap _),
    State.prependOut_entryBody]
  split
  · rfl
  · cases s.entryBody len.toNat with
    | none => rfl
    | some body => simp

theorem execEntRec_prependOut (len : BitVec 15) :
    execEntRec len (s.prependOut p) = outcomePrependOut p (execEntRec len s) := by
  unfold execEntRec
  by_cases hg : s.guardKeyOf ∈ s.guard
  · simp [hg]
  · cases hroom : s.guardHasRoom <;> simp [hg, hroom]

/-- The instructions that the HD engine fetches: both forms of a code and both kinds of an entry (R66, R68). -/
def HdFetchable (i : Instr) : Prop := (∃ v, i = decodeCacheWord v) ∨ ∃ h, i = decodeEntryHeader h

theorem exec_prependOut {i : Instr} (hi : HdFetchable i) (hcap : s.params.outMax = none) :
    exec i (s.prependOut p) = outcomePrependOut p (exec i s) := by
  obtain ⟨v, rfl⟩ | ⟨h, rfl⟩ := hi
  · rcases decodeCacheWord_cases v with ⟨_, e⟩ | ⟨_, e⟩ <;> rw [e]
    · exact execHcodeT_prependOut p s _ _ _
    · exact execHcodeB_prependOut p s (cacheMaxcode v) (cacheIgnored v) (cacheLen v)
  · rcases decodeEntryHeader_cases h with ⟨_, e⟩ | ⟨_, e⟩ <;> rw [e]
    · exact execEntLit_prependOut p s hcap _
    · exact execEntRec_prependOut p s _

/-! The fetches of the HD engine. -/

theorem fetchRead_prependOut {α : Type} (r : Option α) {k k' : α → Fetched}
    (hk : ∀ x, k' x = (k x).prependOut p) : fetchRead r k' = (fetchRead r k).prependOut p := by
  cases r with
  | none => rfl
  | some x => exact hk x

theorem fetchCode_prependOut (f : Frame) : fetchCode f (s.prependOut p) = (fetchCode f s).prependOut p := by
  unfold fetchCode
  rw [State.prependOut_space, State.returnFrame_prependOut]
  split
  · rfl
  · refine fetchRead_prependOut p _ fun m => fetchRead_prependOut p _ fun w => ?_
    split <;> rfl

theorem fetchHdCode_prependOut : fetchHdCode (s.prependOut p) = (fetchHdCode s).prependOut p := by
  unfold fetchHdCode
  rw [State.prependOut_frames]
  cases s.frames with
  | nil => rfl
  | cons f rest => exact fetchCode_prependOut p s f

theorem fetchHeader_prependOut (D : Memory) : fetchHeader D (s.prependOut p) = (fetchHeader D s).prependOut p := by
  unfold fetchHeader
  rw [State.prependOut_hd]
  split
  · rfl
  · refine fetchRead_prependOut p _ fun h => ?_
    split <;> rfl

theorem fetchOffset_prependOut (D : Memory) : fetchOffset D (s.prependOut p) = (fetchOffset D s).prependOut p := by
  unfold fetchOffset
  rw [State.prependOut_hd]
  split
  · rfl
  · exact fetchRead_prependOut p _ fun off => fetchHeader_prependOut p (s.latchOff off) D

theorem fetchHdEntry_prependOut : fetchHdEntry (s.prependOut p) = (fetchHdEntry s).prependOut p := by
  unfold fetchHdEntry
  rw [State.splitCode_prependOut]
  by_cases hbad : s.clValid = false ∨ s.dictsCount ≤ s.splitCode.hd.dict
  · rw [if_pos hbad, if_pos (by simpa using hbad)]
    rfl
  · rw [if_neg hbad, if_neg (by simpa using hbad)]
    exact fetchRead_prependOut p _ fun D => fetchOffset_prependOut p s.splitCode D

theorem fetch_prependOut (hr : s.hdRunning) : fetch (s.prependOut p) = (fetch s).prependOut p := by
  obtain ⟨hb, hne⟩ := hr
  cases he : s.engine with
  | lz => exact absurd he hne
  | hdCode => simp [fetch, hb, he, fetchHdCode_prependOut]
  | hdEntry => simp [fetch, hb, he, fetchHdEntry_prependOut]

/-! What the HD engine fetches. -/

theorem fetchRead_eq_run {α : Type} {r : Option α} {k : α → Fetched} {i : Instr} {u : State}
    (h : fetchRead r k = .run i u) : ∃ x, r = some x ∧ k x = .run i u := by
  cases r with
  | none => cases h
  | some x => exact ⟨x, rfl, h⟩

variable {s}

theorem fetchHdCode_eq_run {i : Instr} {u : State} (h : fetchHdCode s = .run i u) :
    HdFetchable i ∧ u.params = s.params := by
  unfold fetchHdCode at h
  split at h
  · cases h
  · unfold fetchCode at h
    split at h
    · cases h
    · obtain ⟨m, _, h⟩ := fetchRead_eq_run h
      obtain ⟨w, _, h⟩ := fetchRead_eq_run h
      split at h
      · cases h
      · cases h
        exact ⟨.inl ⟨_, rfl⟩, rfl⟩

theorem fetchHdEntry_eq_run {i : Instr} {u : State} (h : fetchHdEntry s = .run i u) :
    HdFetchable i ∧ u.params = s.params := by
  rcases fetchHdEntry_cases s with ⟨f, u', _, _, e⟩ | ⟨D, x, u', _, hu, _, _, _, _, _, _, _, _, _, _, e⟩
  · rw [e] at h
    cases h
  · rw [e] at h
    cases h
    exact ⟨.inr ⟨x, rfl⟩, by rw [hu]⟩

theorem fetch_eq_run_of_hdRunning (hr : s.hdRunning) {i : Instr} {u : State} (h : fetch s = .run i u) :
    HdFetchable i ∧ u.params = s.params := by
  obtain ⟨hb, hne⟩ := hr
  cases he : s.engine with
  | lz => exact absurd he hne
  | hdCode => exact fetchHdCode_eq_run (by simpa [fetch, hb, he] using h)
  | hdEntry => exact fetchHdEntry_eq_run (by simpa [fetch, hb, he] using h)

/-- A step of the HD engine commutes with bytes put in front of OUT, whatever it answers. -/
theorem step_prependOut (hr : s.hdRunning) (hcap : s.params.outMax = none) :
    step (s.prependOut p) = outcomePrependOut p (step s) := by
  unfold step
  rw [fetch_prependOut p s hr]
  cases e : fetch s with
  | stop o => rfl
  | run i u =>
    obtain ⟨hi, hu⟩ := fetch_eq_run_of_hdRunning hr e
    exact exec_prependOut p u hi (hu ▸ hcap)

end PrependOut

/-- Settles O53. -/
theorem hdNeverReadsOut : Obligations.HdNeverReadsOut := by
  intro s t earlier hr hcap h
  have hstep := step_prependOut earlier hr hcap
  rw [h] at hstep
  exact hstep

/-! ### What the instructions and the steps write

An LZ instruction writes OUT, `ip` and the LZ latches, and faults or not; an HD instruction writes OUT and what belongs
to a running DECOMP_HUFF. So neither writes the configuration, and a running command only adds to OUT. -/

section Writes

variable {s t u : State}

/-- The configuration, the parameters and the host's commands are the same in both states (R25, R196). -/
structure State.SameConfig (s t : State) : Prop where
  huffValid : t.huffValid = s.huffValid
  cacheTable : t.cacheTable = s.cacheTable
  baseTable : t.baseTable = s.baseTable
  dicts : t.dicts = s.dicts
  codeLength : t.codeLength = s.codeLength
  clValid : t.clValid = s.clValid
  params : t.params = s.params
  host : t.host = s.host

/-- From `s` to `t` at most OUT, `ip` and the LZ latches were written, and OUT only added to (R14, R15). -/
structure State.LzWrites (s t : State) : Prop where
  only : t = { s with out := t.out, ip := t.ip, lz := t.lz }
  out : s.out <+: t.out

/-- From `s` to `t` at most OUT, the flag, the registers of a command and of a fault, the frames with their guard and
the HD latches were written, and OUT only added to (R11 to R14, R21 to R23). -/
structure State.HdWrites (s t : State) : Prop where
  only : t = { s with
    result := t.result, status := t.status, faultCode := t.faultCode, faultPos := t.faultPos,
    warnLeftover := t.warnLeftover, out := t.out, input := t.input, engine := t.engine,
    frames := t.frames, guard := t.guard, hd := t.hd }
  out : s.out <+: t.out

/-! The operations of the LZ engine. -/

theorem State.LzWrites.trans (h : s.LzWrites t) (h' : t.LzWrites u) : s.LzWrites u :=
  ⟨by rw [h'.only, h.only], h.out.trans h'.out⟩

theorem State.lzWrites_latchControl (s : State) (c : Byte) : s.LzWrites (s.latchControl c) := ⟨rfl, List.prefix_rfl⟩

theorem State.lzWrites_latchBref (s : State) (v : U16) : s.LzWrites (s.latchBref v) := ⟨rfl, List.prefix_rfl⟩

theorem State.lzWrites_appendOut_advance (s : State) (bs : Bytes) (k : Nat) :
    s.LzWrites ((s.appendOut bs).advance k) := ⟨rfl, List.prefix_append s.out bs⟩

/-! The operations of the HD engine, fault entry and the end of a command. -/

theorem State.HdWrites.trans (h : s.HdWrites t) (h' : t.HdWrites u) : s.HdWrites u :=
  ⟨by rw [h'.only, h.only], h.out.trans h'.out⟩

theorem State.SameButHd.hdWrites (h : s.SameButHd t) : s.HdWrites t := by
  rw [h]
  exact ⟨rfl, List.prefix_rfl⟩

theorem State.hdWrites_raise (s : State) (f : FaultName) (pos : Nat) : s.HdWrites (s.raise f pos) :=
  ⟨rfl, List.prefix_rfl⟩

theorem State.hdWrites_finish (s : State) (r : CmdResult) : s.HdWrites (s.finish r) := ⟨rfl, List.prefix_rfl⟩

theorem State.hdWrites_setWarn (s : State) : s.HdWrites s.setWarn := ⟨rfl, List.prefix_rfl⟩

theorem State.hdWrites_returnFrame (s : State) : s.HdWrites s.returnFrame := by
  unfold State.returnFrame
  split <;> exact ⟨rfl, List.prefix_rfl⟩

theorem State.hdWrites_consume (s : State) (f : Frame) (rest : List Frame) (L : Nat) :
    s.HdWrites (s.consume f rest L) := ⟨rfl, List.prefix_rfl⟩

theorem State.hdWrites_appendOut_resume (s : State) (bs : Bytes) : s.HdWrites (s.appendOut bs).resume :=
  ⟨rfl, List.prefix_append s.out bs⟩

theorem State.hdWrites_pushFrame (s : State) (g : U32) (d base n : Nat) : s.HdWrites (s.pushFrame g d base n) :=
  ⟨rfl, List.prefix_rfl⟩

/-! Neither engine writes the configuration. -/

theorem State.SameConfig.refl (s : State) : s.SameConfig s := by constructor <;> rfl

theorem State.SameConfig.trans (h : s.SameConfig t) (h' : t.SameConfig u) : s.SameConfig u where
  huffValid := h'.huffValid.trans h.huffValid
  cacheTable := h'.cacheTable.trans h.cacheTable
  baseTable := h'.baseTable.trans h.baseTable
  dicts := h'.dicts.trans h.dicts
  codeLength := h'.codeLength.trans h.codeLength
  clValid := h'.clValid.trans h.clValid
  params := h'.params.trans h.params
  host := h'.host.trans h.host

theorem State.LzWrites.sameConfig (h : s.LzWrites t) : s.SameConfig t := by
  rw [h.only]
  constructor <;> rfl

theorem State.HdWrites.sameConfig (h : s.HdWrites t) : s.SameConfig t := by
  rw [h.only]
  constructor <;> rfl

/-! The LZ instructions: each writes what an LZ instruction may, and then may fault. -/

/-- From `s` to `t` an LZ instruction ran, perhaps into a fault (R190). -/
def State.LzRuns (s t : State) : Prop := ∃ u, s.LzWrites u ∧ (t = u ∨ ∃ f pos, t = u.raise f pos)

theorem State.LzWrites.runs (h : s.LzWrites t) : s.LzRuns t := ⟨t, h, .inl rfl⟩

theorem State.LzWrites.raise (h : s.LzWrites t) (f : FaultName) (pos : Nat) : s.LzRuns (t.raise f pos) :=
  ⟨t, h, .inr ⟨f, pos, rfl⟩⟩

theorem State.lzRuns_raise (s : State) (f : FaultName) (pos : Nat) : s.LzRuns (s.raise f pos) :=
  State.LzWrites.raise ⟨rfl, List.prefix_rfl⟩ f pos

theorem State.LzWrites.trans_runs (h : s.LzWrites t) (h' : t.LzRuns u) : s.LzRuns u := by
  obtain ⟨v, hv, hu⟩ := h'
  exact ⟨v, h.trans hv, hu⟩

theorem State.LzRuns.sameConfig (h : s.LzRuns t) : s.SameConfig t := by
  obtain ⟨u, hu, rfl | ⟨f, pos, rfl⟩⟩ := h
  · exact hu.sameConfig
  · exact hu.sameConfig.trans (u.hdWrites_raise f pos).sameConfig

theorem State.LzRuns.out (h : s.LzRuns t) : s.out <+: t.out := by
  obtain ⟨u, hu, rfl | ⟨f, pos, rfl⟩⟩ := h <;> exact hu.out

theorem State.LzRuns.writes (h : s.LzRuns t) (hs : t.status ≠ .fault) : s.LzWrites t := by
  obtain ⟨u, hu, rfl | ⟨f, pos, rfl⟩⟩ := h
  · exact hu
  · exact absurd rfl hs

theorem State.LzRuns.warnLeftover (h : s.LzRuns t) : t.warnLeftover = s.warnLeftover := by
  obtain ⟨u, hu, rfl | ⟨f, pos, rfl⟩⟩ := h
  · rw [hu.only]
  · rw [State.raise_warnLeftover, hu.only]

theorem State.LzRuns.hd (h : s.LzRuns t) : t.hd = s.hd := by
  obtain ⟨u, hu, rfl | ⟨f, pos, rfl⟩⟩ := h
  · rw [hu.only]
  · rw [State.raise_hd, hu.only]

theorem emitLz_runs {bs : Bytes} {size : Nat} (h : emitLz bs size s = .next t) : s.LzRuns t := by
  rcases emitLz_eq_next h with ⟨_, rfl⟩ | ⟨_, rfl⟩
  · exact (s.lzWrites_appendOut_advance bs size).runs
  · exact s.lzRuns_raise _ _

theorem execRun_runs {data : Bytes} (h : execRun data s = .next t) : s.LzRuns t := by
  rcases execRun_eq_next h with ⟨_, rfl⟩ | ⟨_, _, rfl⟩ | ⟨_, _, rfl⟩
  · exact s.lzRuns_raise _ _
  · exact (s.lzWrites_appendOut_advance data _).runs
  · exact s.lzRuns_raise _ _

/-- The copy of a back-reference is an append (R84). -/
theorem copyBref_runs (h : copyBref s = .next t) : s.LzRuns t := by
  rcases copyBref_eq_next h with ⟨_, rfl⟩ | ⟨_, _, _, out, hc, rfl⟩ | ⟨_, _, _, rfl⟩
  · exact s.lzRuns_raise _ _
  · obtain ⟨bs, rfl, _⟩ := copyBack_extends hc
    exact (s.lzWrites_appendOut_advance bs 2).runs
  · exact s.lzRuns_raise _ _

theorem execBref_runs {dist : BitVec 11} {lenField : BitVec 3} (h : execBref dist lenField s = .next t) :
    s.LzRuns t := by
  rcases execBref_eq_next h with ⟨_, rfl⟩ | ⟨_, h⟩
  · exact s.lzRuns_raise _ _
  · exact (s.lzWrites_latchBref _).trans_runs (copyBref_runs h)

theorem exec_lz_runs {i : Instr} {bs : Bytes} (hi : encode i = some (.lz, bs)) (h : exec i s = .next t) :
    s.LzRuns t := by
  cases i with
  | lit c => exact emitLz_runs h
  | run data => exact execRun_runs h
  | bref dist lenField => exact execBref_runs h
  | spc low => exact emitLz_runs h
  | _ => simp [encode] at hi

/-! The HD instructions. -/

theorem consumeCode_writes {f : Frame} {rest : List Frame} {L : Nat} {code : U32}
    (h : consumeCode f rest L code s = .next t) : s.HdWrites t := by
  have hl : s.HdWrites (s.latchCode L code f.bp) := State.SameButHd.hdWrites rfl
  rcases consumeCode_eq_next h with ⟨_, rfl⟩ | ⟨_, _, rfl⟩ | ⟨_, _, _, rfl⟩ | ⟨_, _, _, rfl⟩
  · exact hl.trans (State.hdWrites_consume ..)
  · exact hl.trans (State.hdWrites_returnFrame _)
  · exact (hl.trans (State.hdWrites_setWarn _)).trans (State.hdWrites_returnFrame _)
  · exact hl.trans (State.hdWrites_raise ..)

theorem execHcodeT_writes {maxcode : BitVec 24} {ignored : BitVec 2} {len : BitVec 5}
    (h : execHcodeT maxcode ignored len s = .next t) : s.HdWrites t := by
  obtain ⟨f, rest, _, ⟨_, rfl⟩ | ⟨_, h⟩⟩ := withCode_eq_next h
  · exact s.hdWrites_raise _ _
  · exact consumeCode_writes h

theorem execHcodeB_writes {unused : BitVec 24} {ignored : BitVec 2} {len : BitVec 5}
    (h : execHcodeB unused ignored len s = .next t) : s.HdWrites t := by
  obtain ⟨f, rest, _, ⟨_, rfl⟩ | ⟨_, _, rfl⟩ | ⟨_, L, _, h⟩⟩ := execHcodeB_eq_next h
  · exact s.hdWrites_raise _ _
  · exact s.hdWrites_raise _ _
  · exact consumeCode_writes h

theorem execEntLit_writes {len : BitVec 15} (h : execEntLit len s = .next t) : s.HdWrites t := by
  rcases execEntLit_eq_next h with ⟨_, rfl⟩ | ⟨_, _, body, _, rfl⟩ | ⟨_, _, rfl⟩
  · exact s.hdWrites_raise _ _
  · exact s.hdWrites_appendOut_resume body
  · exact s.hdWrites_raise _ _

theorem execEntRec_writes {len : BitVec 15} (h : execEntRec len s = .next t) : s.HdWrites t := by
  rcases execEntRec_eq_next h with ⟨_, rfl⟩ | ⟨_, _, rfl⟩ | ⟨_, _, rfl⟩
  · exact s.hdWrites_raise _ _
  · exact s.hdWrites_pushFrame ..
  · exact s.hdWrites_raise _ _

theorem exec_hd_writes {i : Instr} {e : Encoding} {bs : Bytes} (he : e ≠ .lz) (hi : encode i = some (e, bs))
    (h : exec i s = .next t) : s.HdWrites t := by
  cases i with
  | hcodeT maxcode ignored len => exact execHcodeT_writes h
  | hcodeB unused ignored len => exact execHcodeB_writes (unused := unused) (ignored := ignored) h
  | entLit len => exact execEntLit_writes h
  | entRec len => exact execEntRec_writes h
  | _ => simp [encode, he.symm] at hi

/-! The stream instructions of both engines, told apart by their encoding (R60). -/

theorem encode_of_streamInstr {i : Instr} (hi : streamInstr i = true) : ∃ e bs, encode i = some (e, bs) := by
  cases i with
  | reset | setHuff | addCdic | decompPalm | decompHuff => cases hi
  | _ => exact ⟨_, _, rfl⟩

theorem encode_of_decodeLz {bs rest : Bytes} {i : Instr} (h : decodeLz bs = .ok i rest) :
    ∃ pre, encode i = some (.lz, pre) := by
  rcases decodeLz_ok_cases h with ⟨c, data, rfl, _⟩ | ⟨c, rfl, _⟩ | ⟨c, b, rfl, _⟩ | ⟨c, rfl, _⟩
  all_goals exact ⟨_, rfl⟩

theorem exec_hdFetchable_writes {i : Instr} (hi : HdFetchable i) (h : exec i s = .next t) : s.HdWrites t := by
  obtain ⟨v, rfl⟩ | ⟨x, rfl⟩ := hi
  · rcases decodeCacheWord_cases v with ⟨_, e⟩ | ⟨_, e⟩ <;> rw [e] at h
    · exact exec_hd_writes (by simp) rfl h
    · exact exec_hd_writes (by simp) rfl h
  · rcases decodeEntryHeader_cases x with ⟨_, e⟩ | ⟨_, e⟩ <;> rw [e] at h
    · exact exec_hd_writes (by simp) rfl h
    · exact exec_hd_writes (by simp) rfl h

theorem exec_stream_sameConfig {i : Instr} (hi : streamInstr i = true) (h : exec i s = .next t) : s.SameConfig t := by
  obtain ⟨e, bs, hi⟩ := encode_of_streamInstr hi
  by_cases he : e = .lz
  · subst he
    exact (exec_lz_runs hi h).sameConfig
  · exact (exec_hd_writes he hi h).sameConfig

/-! The steps of a running command. -/

theorem step_lz_writes (hb : s.status = .busy) (he : s.engine = .lz) (h : step s = .next t) :
    s.SameConfig t ∧ s.out <+: t.out := by
  rcases step_lz hb he h with ⟨_, rfl⟩ | ⟨_, i, rest, hd, h⟩
  · have hw := s.hdWrites_finish .ok
    exact ⟨hw.sameConfig, hw.out⟩
  · obtain ⟨pre, hi⟩ := encode_of_decodeLz hd
    have hr := (s.lzWrites_latchControl _).trans_runs (exec_lz_runs hi h)
    exact ⟨hr.sameConfig, hr.out⟩

theorem step_hd_writes (hr : s.hdRunning) (h : step s = .next t) : s.HdWrites t := by
  obtain ⟨hb, hne⟩ := hr
  cases he : s.engine with
  | lz => exact absurd he hne
  | hdCode =>
    rcases step_hdCode hb he h with ⟨_, rfl⟩ | ⟨f, rest, _, rfl | ⟨m, w, _, _, _, _, h⟩⟩
    · exact s.hdWrites_finish _
    · exact s.hdWrites_returnFrame
    · have hl : s.HdWrites (s.latchWindow w s.cacheTable[cacheIndex w] f.bp) := State.SameButHd.hdWrites rfl
      exact hl.trans (exec_hdFetchable_writes (.inl ⟨_, rfl⟩) h)
  | hdEntry =>
    rcases step_hdEntry hb he h with ⟨f, u, _, hu, rfl⟩ | ⟨D, x, u, _, hu, _, _, _, _, _, _, _, _, _, _, h⟩
    · exact hu.hdWrites.trans (u.hdWrites_raise _ _)
    · exact hu.hdWrites.trans (exec_hdFetchable_writes (.inr ⟨x, rfl⟩) h)

theorem step_busy_writes (hb : s.status = .busy) (h : step s = .next t) : s.SameConfig t ∧ s.out <+: t.out := by
  by_cases he : s.engine = .lz
  · exact step_lz_writes hb he h
  · have hw := step_hd_writes ⟨hb, he⟩ h
    exact ⟨hw.sameConfig, hw.out⟩

/-! The host's commands but RESET. -/

/-- From `s` to `t` no blob was lost or changed, and after the first record the code length did not grow (R19, R107). -/
def State.BlobsKept (s t : State) : Prop :=
  s.dicts <+: t.dicts ∧ (s.clValid = true → t.clValid = true ∧ t.codeLength.toNat ≤ s.codeLength.toNat)

theorem State.SameConfig.blobsKept (h : s.SameConfig t) : s.BlobsKept t := by
  unfold State.BlobsKept
  rw [h.dicts, h.clValid, h.codeLength]
  exact ⟨List.prefix_rfl, fun hv => ⟨hv, Nat.le_refl _⟩⟩

/-- The reconciled code length is the lesser of the two (R107). -/
theorem State.reconcile_le (hv : s.clValid = true) (cl : U32) : (s.reconcile cl).toNat ≤ s.codeLength.toNat := by
  unfold State.reconcile
  rw [if_pos hv]
  split <;> omega

theorem State.blobsKept_addDict (s : State) (blob : Bytes) (cl : U32) : s.BlobsKept (s.addDict blob (s.reconcile cl)) :=
  ⟨List.prefix_append s.dicts [blob], fun hv => ⟨rfl, State.reconcile_le hv cl⟩⟩

theorem exec_hostCmd_keeps {c : HostCmd} (hc : c ≠ .reset) (h : exec c.instr s = .next t) :
    t.out = s.out ∧ s.BlobsKept t := by
  have same : s.BlobsKept s := State.SameConfig.blobsKept (.refl _)
  cases c with
  | reset => exact absurd rfl hc
  | setHuff record =>
    rcases enterCommand_eq_next h with ⟨_, rfl⟩ | ⟨_, h⟩
    · exact ⟨rfl, same⟩
    rcases setHuffBody_eq_next h with ⟨_, _, rfl⟩ | ⟨_, _, _, _, rfl⟩
    · exact ⟨rfl, same⟩
    · exact ⟨rfl, same⟩
  | addCdic record =>
    rcases enterCommand_eq_next h with ⟨_, rfl⟩ | ⟨_, h⟩
    · exact ⟨rfl, same⟩
    rcases addCdicBody_eq_next h with ⟨_, _, rfl⟩ | ⟨_, _, cl, _, _, rfl⟩
    · exact ⟨rfl, same⟩
    · exact ⟨rfl, s.begin.blobsKept_addDict _ cl⟩
  | decompPalm payload =>
    have h : execDecompPalm payload s = .next t := h
    rcases enterCommand_eq_next h with ⟨_, rfl⟩ | ⟨_, h⟩
    · exact ⟨rfl, same⟩
    · cases h
      exact ⟨rfl, same⟩
  | decompHuff payload =>
    rcases enterCommand_eq_next h with ⟨_, rfl⟩ | ⟨_, h⟩
    · exact ⟨rfl, same⟩
    rcases decompHuffBody_eq_next h with ⟨_, rfl⟩ | ⟨_, rfl⟩
    · exact ⟨rfl, same⟩
    · exact ⟨rfl, same⟩

/-- Only the host's RESET takes bytes from OUT or loses a blob (R14, R163). -/
theorem step_keeps (h : step s = .next t) :
    (s.out <+: t.out ∧ s.BlobsKept t) ∨ (s.status ≠ .busy ∧ ∃ cs, s.host = .reset :: cs ∧ t.out = []) := by
  by_cases hb : s.status = .busy
  · obtain ⟨hc, ho⟩ := step_busy_writes hb h
    exact .inl ⟨ho, hc.blobsKept⟩
  · rcases step_command hb h with ⟨_, rfl⟩ | ⟨c, cs, hq, h⟩
    · exact .inl ⟨List.prefix_rfl, State.SameConfig.blobsKept (.refl _)⟩
    · by_cases hc : c = .reset
      · subst hc
        cases h
        exact .inr ⟨hb, cs, hq, rfl⟩
      · obtain ⟨ho, hk⟩ := exec_hostCmd_keeps hc h
        exact .inl ⟨by rw [ho]; exact List.prefix_rfl, hk⟩

end Writes

/-- Settles O52. -/
theorem outOnlyGrows : Obligations.OutOnlyGrows := fun _ _ h => (step_keeps h).imp_left And.left

/-- Settles O56. -/
theorem blobsKeptUntilReset : Obligations.BlobsKeptUntilReset := fun _ _ h =>
  (step_keeps h).imp And.right fun ⟨hb, cs, hq, _⟩ => ⟨hb, cs, hq⟩

/-- Settles O54: what the instruction may write, by its encoding. -/
theorem streamInstrWritesNoConfiguration : Obligations.StreamInstrWritesNoConfiguration := by
  intro i s t hi h
  have hc := exec_stream_sameConfig hi h
  refine ⟨hc.huffValid, hc.cacheTable, hc.baseTable, hc.dicts, hc.codeLength, hc.clValid, hc.params, hc.host,
    fun bs he => ?_, fun e bs hne he => ?_⟩
  · have hr := exec_lz_runs he h
    refine ⟨hr.warnLeftover, hr.hd, fun hs => ?_⟩
    rw [(hr.writes hs).only]
    exact ⟨rfl, rfl, rfl, rfl, rfl, rfl, rfl⟩
  · rw [(exec_hd_writes hne he h).only]
    exact ⟨rfl, rfl⟩

end Sys2Proof.Machine
end

section
/-! Proofs of the memory family (20_memory.md): no access leaves its space. Each part of the step answers a next state:
first the shared operations, then the instructions of the host and of the two engines, then the fetches. -/

namespace Sys2Proof.Machine

open Sys2Proof

/-! ### Outcomes that are a next state -/

section Answers

variable {s : State}

/-- The outcome is a next state: no access was refused and nothing was without a meaning. -/
def Answers (o : Out) : Prop := ∃ t, o = .next t

/-- The fetch ends in a next state, with the meaning of the instruction where it fetches one. -/
def Fetched.Answers : Fetched → Prop
  | .run i u => Machine.Answers (exec i u)
  | .stop o => Machine.Answers o

theorem step_answers_iff : Answers (step s) ↔ (fetch s).Answers := by
  unfold step
  cases fetch s <;> rfl

theorem answers_next (t : State) : Answers (.next t) := ⟨t, rfl⟩

theorem Fetched.answers_stop_next (t : State) : (Fetched.stop (.next t)).Answers := ⟨t, rfl⟩

/-- A test whose failure is taken in a next state, as every fault of the unit is (R190). -/
theorem answers_test {c : Prop} [Decidable c] {t : State} {o : Out} (h : ¬ c → Answers o) :
    Answers (if c then .next t else o) := by
  split
  · exact answers_next t
  · exact h ‹_›

/-- A read of bytes that all exist goes on (R45). -/
theorem answers_withRead {α : Type} {r : Option α} {k : α → Out} (hr : ∃ x, r = some x) (hk : ∀ x, Answers (k x)) :
    Answers (withRead r k) := by
  obtain ⟨x, rfl⟩ := hr
  exact hk x

theorem Fetched.answers_fetchRead {α : Type} {r : Option α} {k : α → Fetched} {x : α} (hr : r = some x)
    (hk : (k x).Answers) : (fetchRead r k).Answers := by
  rw [hr]
  exact hk

theorem readBytes_exists {m : Memory} {a n : Nat} (h : a + n ≤ m.length) : ∃ bs, readBytes m a n = some bs :=
  ⟨_, readBytes_of_le h⟩

theorem memRead_exists {m : Memory} {a n : Nat} (h : a + n ≤ m.length) : ∃ x, memRead m a n = some x :=
  ⟨_, memRead_of_le h⟩

/-! ### The host's commands

They answer in every state: the length test of a record comes before its first read (R101, R105). -/

theorem enterCommand_answers (s : State) {k : State → Out} (hk : ∀ u, Answers (k u)) : Answers (enterCommand s k) :=
  answers_test fun _ => hk s.begin

theorem setHuffBody_answers (record : Bytes) (s : State) : Answers (setHuffBody record s) := by
  unfold setHuffBody Config.huffMinLen Config.huffHdrLen Config.cacheBytes Config.baseBytes
  refine answers_test fun hlen => ?_
  have hlen : 1304 ≤ record.length := Nat.not_lt.1 hlen
  refine answers_withRead (readBytes_exists (by omega)) fun magic => answers_test fun _ => ?_
  refine answers_withRead (memRead_exists (by omega)) fun hdrLen => answers_test fun _ => ?_
  refine answers_withRead (memRead_exists (by omega)) fun cacheOffset => answers_test fun _ => ?_
  refine answers_withRead (memRead_exists (by omega)) fun baseOffset => answers_test fun _ => ?_
  refine answers_withRead (readTable_of_le (by omega)) fun cache => ?_
  exact answers_withRead (readTable_of_le (by omega)) fun base => answers_next _

theorem addCdicBody_answers (record : Bytes) (s : State) : Answers (addCdicBody record s) := by
  unfold addCdicBody Config.cdicHdrLen Config.cdicCodeLenOff
  refine answers_test fun _ => answers_test fun hlen => ?_
  refine answers_withRead (readBytes_exists (by omega)) fun magic => answers_test fun _ => ?_
  refine answers_withRead (memRead_exists (by omega)) fun hdrLen => answers_test fun _ => ?_
  exact answers_withRead (memRead32_of_le (by omega)) fun cl => answers_test fun _ => answers_next _

theorem decompHuffBody_answers (payload : Bytes) (s : State) : Answers (decompHuffBody payload s) :=
  answers_test fun _ => answers_next _

theorem exec_hostCmd_answers (c : HostCmd) (s : State) : Answers (exec c.instr s) := by
  cases c with
  | reset => exact answers_next _
  | setHuff record => exact enterCommand_answers s (setHuffBody_answers record)
  | addCdic record => exact enterCommand_answers s (addCdicBody_answers record)
  | decompPalm payload => exact enterCommand_answers s fun _ => answers_next _
  | decompHuff payload => exact enterCommand_answers s (decompHuffBody_answers payload)

theorem fetchCommand_answers (s : State) : (fetchCommand s).Answers := by
  unfold fetchCommand
  cases s.host with
  | nil => exact Fetched.answers_stop_next s
  | cons c cs => exact exec_hostCmd_answers c (s.takeCommand cs)

/-! ### The LZ engine

Its instructions answer in every state: BREF tests its distance before it reads OUT (R84). -/

theorem emitLz_answers (bs : Bytes) (size : Nat) (s : State) : Answers (emitLz bs size s) :=
  answers_test fun _ => answers_next _

theorem copyBref_answers (s : State) : Answers (copyBref s) := by
  unfold copyBref
  refine answers_test fun hd => ?_
  split
  · obtain ⟨bs, hc, _⟩ := copyBack_of_le (k := s.lz.len.toNat) (Nat.pos_of_ne_zero (not_or.1 hd).1)
      (Nat.not_lt.1 (not_or.1 hd).2)
    exact answers_withRead ⟨_, hc⟩ fun out => answers_next _
  · exact answers_next _

theorem exec_lz_answers {i : Instr} {bs : Bytes} (hi : encode i = some (.lz, bs)) (s : State) : Answers (exec i s) := by
  cases i with
  | lit c => exact emitLz_answers [c] 1 s
  | run data => exact answers_test fun _ => emitLz_answers data (1 + data.length) s
  | bref dist lenField => exact answers_test fun _ => copyBref_answers _
  | spc low => exact emitLz_answers [0x20, spcChar low] 1 s
  | _ => simp [encode] at hi

/-- The zeros after the payload make every control byte an instruction (R62). -/
theorem decodeLz_lzWindow (h : s.ip < s.input.length) : ∃ i rest, decodeLz s.lzWindow = .ok i rest := by
  unfold State.lzWindow
  rw [List.drop_eq_getElem_cons h, List.cons_append]
  exact decodeLz_of_long (by simp [maxLzBytes])

theorem fetchLz_answers (s : State) : (fetchLz s).Answers := by
  unfold fetchLz
  split
  · obtain ⟨i, rest, hd⟩ := decodeLz_lzWindow ‹_›
    obtain ⟨pre, hi⟩ := encode_of_decodeLz hd
    rw [hd]
    exact Fetched.answers_fetchRead (memRead8_of_lt ‹_›) (exec_lz_answers hi _)
  · exact Fetched.answers_stop_next _

/-! ### The HD engine

A code needs a live frame (R122), whose stream lies inside its space; an entry needs its body inside its blob (R131,
R144). -/

theorem straddle_answers (f : Frame) (s : State) : Answers (straddle f s) := by
  unfold straddle
  refine answers_test fun _ => ?_
  cases s.params.straddlePolicy with
  | warn => exact answers_next _
  | fault => exact answers_next _

theorem consumeCode_answers (f : Frame) (rest : List Frame) (L : Nat) (code : U32) (s : State) :
    Answers (consumeCode f rest L code s) := by
  unfold consumeCode
  split
  · exact straddle_answers f _
  · exact answers_next _

theorem withCode_answers (hf : s.frames ≠ []) (len : BitVec 5) {k : Frame → List Frame → Out}
    (hk : ∀ f rest, Answers (k f rest)) : Answers (withCode len s k) := by
  unfold withCode
  cases e : s.frames with
  | nil => exact absurd e hf
  | cons f rest => exact answers_test fun _ => hk f rest

theorem exec_decodeCacheWord_answers (hf : s.frames ≠ []) (v : U32) : Answers (exec (decodeCacheWord v) s) := by
  rcases decodeCacheWord_cases v with ⟨_, e⟩ | ⟨_, e⟩ <;> rw [e]
  · exact withCode_answers hf _ fun f rest => consumeCode_answers ..
  · refine withCode_answers hf _ fun f rest => ?_
    cases scanBase s.baseTable s.hd.w (cacheLen v).toNat with
    | none => exact answers_next _
    | some L => exact consumeCode_answers ..

theorem fetchCode_answers {f : Frame} (hf : s.frames ≠ []) (hin : s.FrameInside f) : (fetchCode f s).Answers := by
  obtain ⟨m, hm, hn, _⟩ := hin
  unfold fetchCode
  split
  · exact Fetched.answers_stop_next _
  · obtain ⟨w, hw⟩ := peek32_of_le (bp := f.bp) hn
    refine Fetched.answers_fetchRead hm (Fetched.answers_fetchRead hw ?_)
    split
    · exact Fetched.answers_stop_next _
    · exact exec_decodeCacheWord_answers (s := s.latchWindow w _ f.bp) hf _

theorem fetchHdCode_answers (h : s.Inv) : (fetchHdCode s).Answers := by
  unfold fetchHdCode
  cases e : s.frames with
  | nil => exact Fetched.answers_stop_next _
  | cons f rest => exact fetchCode_answers (by simp [e]) (h.frames_inside f (by simp [e]))

theorem entryBody_exists {D : Memory} {k : Nat} (hD : s.dicts[s.hd.dict]? = some D)
    (hk : s.hd.off.toNat + 2 + k ≤ D.length) : ∃ body, s.entryBody k = some body := by
  unfold State.entryBody
  rw [hD]
  exact readBytes_exists hk

theorem execEntLit_answers {len : BitVec 15} (hb : ∃ body, s.entryBody len.toNat = some body) :
    Answers (execEntLit len s) := by
  unfold execEntLit
  refine answers_test fun _ => ?_
  split
  · exact answers_withRead hb fun body => answers_next _
  · exact answers_next _

theorem execEntRec_answers (len : BitVec 15) (s : State) : Answers (execEntRec len s) :=
  answers_test fun _ => answers_test fun _ => answers_next _

theorem exec_decodeEntryHeader_answers {x : U16} {D : Memory} (hD : s.dicts[s.hd.dict]? = some D)
    (hk : s.hd.off.toNat + 2 + (entryLen x).toNat ≤ D.length) : Answers (exec (decodeEntryHeader x) s) := by
  rcases decodeEntryHeader_cases x with ⟨_, e⟩ | ⟨_, e⟩ <;> rw [e]
  · exact execEntLit_answers (entryBody_exists hD hk)
  · exact execEntRec_answers _ s

/-- The lookup makes its own tests, so it needs nothing of the state (R142 to R144). -/
theorem fetchHdEntry_answers (s : State) : (fetchHdEntry s).Answers := by
  rcases fetchHdEntry_cases s with ⟨f, u, _, _, e⟩ | ⟨D, x, u, _, hu, _, _, hD, _, _, _, _, hk, _, _, e⟩ <;> rw [e]
  · exact Fetched.answers_stop_next _
  · have hdicts : u.dicts = s.dicts := by rw [hu]
    exact exec_decodeEntryHeader_answers (hdicts ▸ hD) hk

/-! ### The step -/

theorem fetch_answers (h : s.Inv) : (fetch s).Answers := by
  by_cases hb : s.status = .busy
  · unfold fetch
    rw [hb]
    cases s.engine with
    | lz => exact fetchLz_answers s
    | hdCode => exact fetchHdCode_answers h
    | hdEntry => exact fetchHdEntry_answers s
  · rw [fetch_of_not_busy hb]
    exact fetchCommand_answers s

end Answers

/-- Settles O50, by what the unit fetches: of the invariant only the frames inside their spaces are needed. -/
theorem stepNeverStops : Obligations.StepNeverStops := fun _ h => step_answers_iff.2 (fetch_answers h)

end Sys2Proof.Machine
end

section
/-! Proofs of the encoding family (30_encoding.md): the words as numbers, each word and its bytes and fields (R41, R63,
R66, R68), the LZ classes (R61, R62), the round trips, the split of a code (R67) and the fetch of a placed word. -/

namespace Sys2Proof.Machine

open Sys2Proof

/-! ### Words as numbers -/

theorem toNat_append_eq_add {m n : Nat} (x : BitVec m) (y : BitVec n) : (x ++ y).toNat = x.toNat * 2 ^ n + y.toNat := by
  rw [BitVec.toNat_append, ← Nat.shiftLeft_add_eq_or_of_lt y.isLt, Nat.shiftLeft_eq]

theorem toNat_extractLsb'_eq_div_mod {m : Nat} (start len : Nat) (x : BitVec m) :
    (x.extractLsb' start len).toNat = x.toNat / 2 ^ start % 2 ^ len := by
  rw [BitVec.extractLsb'_toNat, Nat.shiftRight_eq_div_pow]

theorem brefWord_toNat (c b : Byte) : (brefWord c b).toNat = c.toNat * 256 + b.toNat := toNat_append_eq_add c b

theorem brefDist_toNat (v : U16) : (brefDist v).toNat = v.toNat / 8 % 2048 := toNat_extractLsb'_eq_div_mod 3 11 v

theorem brefLenField_toNat (v : U16) : (brefLenField v).toNat = v.toNat % 8 := by
  simp [brefLenField]

theorem brefWordOf_toNat (d : BitVec 11) (l : BitVec 3) : (brefWordOf d l).toNat = 32768 + d.toNat * 8 + l.toNat := by
  simp only [brefWordOf, toNat_append_eq_add, BitVec.toNat_ofNat]
  omega

theorem cacheWordOf_toNat (t : Bool) (m : BitVec 24) (g : BitVec 2) (l : BitVec 5) :
    (cacheWordOf t m g l).toNat = m.toNat * 256 + t.toNat * 128 + g.toNat * 32 + l.toNat := by
  simp only [cacheWordOf, toNat_append_eq_add, BitVec.toNat_ofBool]
  omega

theorem entryHeaderOf_toNat (t : Bool) (l : BitVec 15) : (entryHeaderOf t l).toNat = t.toNat * 32768 + l.toNat := by
  simp only [entryHeaderOf, toNat_append_eq_add, BitVec.toNat_ofBool]
  omega

theorem hiByte_toNat (h : U16) : (hiByte h).toNat = h.toNat / 256 := by
  rw [hiByte, toNat_extractLsb'_eq_div_mod]
  omega

theorem cacheTerm_toNat (v : U32) : (cacheTerm v).toNat = v.toNat / 128 % 2 := Nat.toNat_testBit v.toNat 7

theorem entryLit_toNat (h : U16) : (entryLit h).toNat = h.toNat / 32768 % 2 := Nat.toNat_testBit h.toNat 15

/-- The control byte of an SPC has its two high bits set (R61). -/
theorem spcByte_toNat (low : BitVec 6) : (0b11#2 ++ low : Byte).toNat = 192 + low.toNat :=
  toNat_append_eq_add 0b11#2 low

/-! ### Words and their bytes (R41) -/

theorem hiByte_append_loByte (h : U16) : hiByte h ++ loByte h = h :=
  (BitVec.extractLsb'_append_extractLsb'_eq_extractLsb' (start₁ := 0) (len₁ := 8) rfl).trans BitVec.extractLsb'_eq_self

theorem hiByte_append (a b : Byte) : hiByte (a ++ b) = a := BitVec.extractLsb'_append_eq_left

theorem loByte_append (a b : Byte) : loByte (a ++ b) = b := BitVec.extractLsb'_append_eq_right

theorem bytesOf32_append (a b c d : Byte) : bytesOf32 (a ++ b ++ c ++ d) = [a, b, c, d] := by
  simp only [bytesOf32, List.cons.injEq, and_true]
  refine ⟨?_, ?_, ?_, ?_⟩ <;> apply BitVec.eq_of_toNat_eq <;>
    simp only [toNat_extractLsb'_eq_div_mod, toNat_append_eq_add] <;> omega

/-- The four bytes of a word, joined again. -/
theorem exists_bytesOf32 (v : U32) : ∃ a b c d : Byte, bytesOf32 v = [a, b, c, d] ∧ a ++ b ++ c ++ d = v := by
  refine ⟨_, _, _, _, rfl, BitVec.eq_of_toNat_eq ?_⟩
  simp only [toNat_extractLsb'_eq_div_mod, toNat_append_eq_add]
  omega

/-! ### Words and their fields (R63, R66, R68) -/

theorem brefDist_brefWordOf (d : BitVec 11) (l : BitVec 3) : brefDist (brefWordOf d l) = d := by
  apply BitVec.eq_of_toNat_eq
  rw [brefDist_toNat, brefWordOf_toNat]
  omega

theorem brefLenField_brefWordOf (d : BitVec 11) (l : BitVec 3) : brefLenField (brefWordOf d l) = l := by
  apply BitVec.eq_of_toNat_eq
  rw [brefLenField_toNat, brefWordOf_toNat]
  omega

/-- The control bytes of BREF are those with bits 7:6 equal to `10`, which `brefWordOf` puts back (R61). -/
theorem brefWordOf_brefWord {c b : Byte} (h1 : 128 ≤ c.toNat) (h2 : c.toNat < 192) :
    brefWordOf (brefDist (brefWord c b)) (brefLenField (brefWord c b)) = brefWord c b := by
  apply BitVec.eq_of_toNat_eq
  rw [brefWordOf_toNat, brefDist_toNat, brefLenField_toNat, brefWord_toNat]
  omega

theorem cacheWordOf_fields (v : U32) :
    cacheWordOf (cacheTerm v) (cacheMaxcode v) (cacheIgnored v) (cacheLen v) = v := by
  apply BitVec.eq_of_toNat_eq
  rw [cacheWordOf_toNat, cacheTerm_toNat, cacheMaxcode_toNat, cacheIgnored_toNat, cacheLen_toNat]
  omega

theorem entryHeaderOf_fields (h : U16) : entryHeaderOf (entryLit h) (entryLen h) = h := by
  apply BitVec.eq_of_toNat_eq
  rw [entryHeaderOf_toNat, entryLit_toNat, entryLen_toNat]
  omega

theorem decodeCacheWord_cacheWordOf (t : Bool) (m : BitVec 24) (g : BitVec 2) (l : BitVec 5) :
    decodeCacheWord (cacheWordOf t m g l) = if t then .hcodeT m g l else .hcodeB m g l := by
  have ht : cacheTerm (cacheWordOf t m g l) = t := by
    rw [Bool.eq_iff_iff, cacheTerm_iff, cacheWordOf_toNat]
    cases t <;> simp <;> omega
  have hm : cacheMaxcode (cacheWordOf t m g l) = m := by
    apply BitVec.eq_of_toNat_eq
    have := t.toNat_le
    rw [cacheMaxcode_toNat, cacheWordOf_toNat]
    omega
  have hg : cacheIgnored (cacheWordOf t m g l) = g := by
    apply BitVec.eq_of_toNat_eq
    rw [cacheIgnored_toNat, cacheWordOf_toNat]
    omega
  have hl : cacheLen (cacheWordOf t m g l) = l := by
    apply BitVec.eq_of_toNat_eq
    rw [cacheLen_toNat, cacheWordOf_toNat]
    omega
  rw [decodeCacheWord, ht, hm, hg, hl]

theorem decodeEntryHeader_entryHeaderOf (t : Bool) (l : BitVec 15) :
    decodeEntryHeader (entryHeaderOf t l) = if t then .entLit l else .entRec l := by
  have ht : entryLit (entryHeaderOf t l) = t := by
    rw [Bool.eq_iff_iff, entryLit_iff, entryHeaderOf_toNat]
    cases t <;> simp [l.isLt]
  have hl : entryLen (entryHeaderOf t l) = l := by
    apply BitVec.eq_of_toNat_eq
    rw [entryLen_toNat, entryHeaderOf_toNat]
    omega
  rw [decodeEntryHeader, ht, hl]

/-! ### The LZ classes (R62) -/

section Lz

variable {c : Byte}

theorem decodeLz_lit (h0 : c.toNat = 0 ∨ 9 ≤ c.toNat) (h1 : c.toNat < 128) (rest : Bytes) :
    decodeLz (c :: rest) = .ok (.lit c) rest := by
  have hrun : ¬ (1 ≤ c.toNat ∧ c.toNat ≤ 8) := by omega
  simp only [decodeLz, if_neg hrun, if_pos h1]

theorem decodeLz_run (h1 : 1 ≤ c.toNat) (h8 : c.toNat ≤ 8) {data : Bytes} (hl : data.length = c.toNat) (rest : Bytes) :
    decodeLz (c :: (data ++ rest)) = .ok (.run data) rest := by
  have hlong : ¬ (data ++ rest).length < c.toNat := by rw [List.length_append]; omega
  simp only [decodeLz, if_pos (And.intro h1 h8), if_neg hlong]
  rw [← hl, List.take_left, List.drop_left]

theorem decodeLz_bref (h1 : 128 ≤ c.toNat) (h2 : c.toNat < 192) (b : Byte) (rest : Bytes) :
    decodeLz (c :: b :: rest) = .ok (.bref (brefDist (brefWord c b)) (brefLenField (brefWord c b))) rest := by
  rw [decodeLz, if_neg (by omega), if_neg (by omega), if_pos h2]

theorem decodeLz_spc (h1 : 192 ≤ c.toNat) (rest : Bytes) :
    decodeLz (c :: rest) = .ok (.spc (c.extractLsb' 0 6)) rest := by
  have hrun : ¬ (1 ≤ c.toNat ∧ c.toNat ≤ 8) := by omega
  have hlit : ¬ c.toNat < 128 := by omega
  simp only [decodeLz, if_neg hrun, if_neg hlit, if_neg (Nat.not_lt.2 h1)]

/-- The low six bits of an SPC's control byte under its two high bits are that byte. -/
theorem spcByte_extract (h1 : 192 ≤ c.toNat) : 0b11#2 ++ c.extractLsb' 0 6 = c := by
  apply BitVec.eq_of_toNat_eq
  rw [spcByte_toNat, toNat_extractLsb'_eq_div_mod]
  omega

end Lz

theorem litByte_iff (c : Byte) : litByte c = true ↔ (c.toNat = 0 ∨ 9 ≤ c.toNat) ∧ c.toNat < 128 := by
  have h0 : c = 0 ↔ c.toNat = 0 := BitVec.toNat_inj.symm
  simp only [litByte, Bool.or_eq_true, beq_iff_eq, h0, Bool.and_eq_true, decide_eq_true_eq]
  omega

theorem runLength_iff (k : Nat) : runLength k = true ↔ 1 ≤ k ∧ k ≤ 8 := by
  simp [runLength]

/-- Settles O4: eight bytes after the control byte are enough for every class. -/
theorem controlByteClasses : Obligations.ControlByteClasses := by
  intro c rest hr
  refine ⟨fun h => decodeLz_lit (by omega) (by omega) rest, fun ⟨h1, h8⟩ => ?_, fun ⟨h1, h2⟩ => ?_,
    fun h => ⟨_, decodeLz_spc h rest⟩⟩
  · have hl : (rest.take c.toNat).length = c.toNat := by rw [List.length_take]; omega
    have hd := decodeLz_run h1 h8 hl (rest.drop c.toNat)
    rwa [List.take_append_drop] at hd
  · cases rest with
    | nil => exact absurd hr (by simp)
    | cons b tl => exact ⟨_, _, decodeLz_bref h1 (by omega) b tl⟩

/-! ### The operands of the LZ instructions (R63, R64) -/

/-- Distance 0 is the field of the control byte 0x80 and a second byte below 8 (R63). -/
theorem brefDist_eq_zero_iff {c b : Byte} (h1 : 128 ≤ c.toNat) (h2 : c.toNat < 192) :
    brefDist (brefWord c b) = 0 ↔ c = 0x80 ∧ b.toNat ≤ 7 := by
  have hd : brefDist (brefWord c b) = 0 ↔ (c.toNat * 256 + b.toNat) / 8 % 2048 = 0 := by
    rw [← BitVec.toNat_inj, brefDist_toNat, brefWord_toNat]
    rfl
  have hc : c = 0x80 ↔ c.toNat = 128 := BitVec.toNat_inj.symm
  rw [hd, hc]
  omega

/-- A BREF whose distance is 0 faults at its own position, before it copies (R84). -/
theorem execBref_zero {s : State} (h : s.ip + 2 ≤ s.input.length) (l : BitVec 3) :
    execBref 0 l s = .next ((s.latchBref (brefWordOf 0 l)).raise .lzBadDistance s.ip) := by
  have hd : (s.latchBref (brefWordOf 0 l)).lz.dist.toNat = 0 := by
    rw [State.latchBref_lz, brefDist_brefWordOf]
    rfl
  rw [execBref, if_neg (by omega), copyBref, if_pos (.inl hd), State.latchBref_ip]

/-- Settles O5: the two bytes as one number. -/
theorem brefOperands : Obligations.BrefOperands := by
  intro c b rest h1 h2
  refine ⟨_, _, decodeLz_bref h1 (by omega) b rest, ?_, ?_, brefDist_eq_zero_iff h1 (by omega), fun h0 s hs => ?_⟩
  · rw [brefDist_toNat, brefWord_toNat]
  · rw [brefLenField_toNat, brefWord_toNat]
  · rw [h0]
    exact ⟨_, execBref_zero hs _, rfl, rfl, rfl, rfl⟩

/-- The XOR with 0x80 clears bit 7 of the control byte and leaves bit 6 set (R64). -/
theorem spcChar_toNat (low : BitVec 6) : (spcChar low).toNat = 0x40 + low.toNat := by
  have hx : spcChar low = 0b01#2 ++ low :=
    (BitVec.xor_append (x₂ := 0b10#2) (y₂ := 0#6)).trans (by rw [BitVec.xor_zero]; rfl)
  rw [hx, toNat_append_eq_add]
  rfl

/-- Settles O6. -/
theorem spcRunLitOperands : Obligations.SpcRunLitOperands := by
  refine ⟨fun c rest h => ⟨_, decodeLz_spc h rest, ?_, ?_⟩, fun c data rest h1 h8 hl => decodeLz_run h1 h8 hl rest,
    fun c rest h0 h1 => decodeLz_lit h0 (by omega) rest⟩
  · rw [spcChar, spcByte_extract h]
  · rw [spcChar_toNat, toNat_extractLsb'_eq_div_mod]
    omega

/-! ### The round trips (R61, R66, R68) -/

theorem decodeLz_brefWordOf (d : BitVec 11) (l : BitVec 3) (rest : Bytes) :
    decodeLz (hiByte (brefWordOf d l) :: loByte (brefWordOf d l) :: rest) = .ok (.bref d l) rest := by
  have hc : 128 ≤ (hiByte (brefWordOf d l)).toNat ∧ (hiByte (brefWordOf d l)).toNat < 192 := by
    rw [hiByte_toNat, brefWordOf_toNat]
    omega
  have hw : brefWord (hiByte (brefWordOf d l)) (loByte (brefWordOf d l)) = brefWordOf d l := hiByte_append_loByte _
  rw [decodeLz_bref hc.1 hc.2, hw, brefDist_brefWordOf, brefLenField_brefWordOf]

theorem decode_cacheWord_bytesOf32 (v : U32) (rest : Bytes) :
    decode .cacheWord (bytesOf32 v ++ rest) = .ok (decodeCacheWord v) rest := by
  obtain ⟨a, b, c, d, hbs, rfl⟩ := exists_bytesOf32 v
  rw [hbs]
  rfl

theorem decode_entryHeader_bytes (h : U16) (rest : Bytes) :
    decode .entryHeader ([hiByte h, loByte h] ++ rest) = .ok (decodeEntryHeader h) rest := by
  simp [decode, hiByte_append_loByte]

theorem decode_cacheWord_ok {bs rest : Bytes} {i : Instr} (h : decode .cacheWord bs = .ok i rest) :
    ∃ v, i = decodeCacheWord v ∧ bs = bytesOf32 v ++ rest := by
  simp only [decode] at h
  split at h
  · cases h
    exact ⟨_, rfl, by rw [bytesOf32_append]; rfl⟩
  · cases h

theorem decode_entryHeader_ok {bs rest : Bytes} {i : Instr} (h : decode .entryHeader bs = .ok i rest) :
    ∃ x, i = decodeEntryHeader x ∧ bs = [hiByte x, loByte x] ++ rest := by
  simp only [decode] at h
  split at h
  · cases h
    exact ⟨_, rfl, by rw [hiByte_append, loByte_append]; rfl⟩
  · cases h

/-- Settles O2: the decoder reads each field back from the place where the encoder put it. -/
theorem decodeOfEncode : Obligations.DecodeOfEncode := by
  intro i e bs rest hwf he
  cases i with
  | lit c =>
    cases he
    obtain ⟨h0, h1⟩ := (litByte_iff c).1 hwf
    exact decodeLz_lit h0 h1 rest
  | run data =>
    cases he
    obtain ⟨h1, h8⟩ := (runLength_iff _).1 hwf
    have hc : (BitVec.ofNat 8 data.length).toNat = data.length := by rw [BitVec.toNat_ofNat]; omega
    exact decodeLz_run (by omega) (by omega) hc.symm rest
  | bref d l =>
    cases he
    exact decodeLz_brefWordOf d l rest
  | spc low =>
    cases he
    have hc : 192 ≤ (0b11#2 ++ low : Byte).toNat := by rw [spcByte_toNat]; omega
    exact (decodeLz_spc hc rest).trans (by rw [BitVec.extractLsb'_append_eq_right])
  | hcodeT m g l =>
    cases he
    rw [decode_cacheWord_bytesOf32, decodeCacheWord_cacheWordOf, if_pos rfl]
  | hcodeB m g l =>
    cases he
    rw [decode_cacheWord_bytesOf32, decodeCacheWord_cacheWordOf, if_neg Bool.false_ne_true]
  | entLit l =>
    cases he
    rw [decode_entryHeader_bytes, decodeEntryHeader_entryHeaderOf, if_pos rfl]
  | entRec l =>
    cases he
    rw [decode_entryHeader_bytes, decodeEntryHeader_entryHeaderOf, if_neg Bool.false_ne_true]
  | reset | setHuff | addCdic | decompPalm | decompHuff => cases he

theorem encode_decodeCacheWord (v : U32) : encode (decodeCacheWord v) = some (.cacheWord, bytesOf32 v) := by
  have hv := cacheWordOf_fields v
  rcases decodeCacheWord_cases v with ⟨ht, e⟩ | ⟨ht, e⟩ <;> rw [ht] at hv <;> rw [e, encode, hv]

theorem encode_decodeEntryHeader (h : U16) :
    encode (decodeEntryHeader h) = some (.entryHeader, [hiByte h, loByte h]) := by
  have hh := entryHeaderOf_fields h
  rcases decodeEntryHeader_cases h with ⟨ht, e⟩ | ⟨ht, e⟩ <;> rw [ht] at hh <;> rw [e, encode, hh]

theorem decodeCacheWord_wellFormed (v : U32) : (decodeCacheWord v).wellFormed = true := by
  rcases decodeCacheWord_cases v with ⟨_, e⟩ | ⟨_, e⟩ <;> rw [e] <;> rfl

theorem decodeEntryHeader_wellFormed (h : U16) : (decodeEntryHeader h).wellFormed = true := by
  rcases decodeEntryHeader_cases h with ⟨_, e⟩ | ⟨_, e⟩ <;> rw [e] <;> rfl

/-- Each LZ class gives its control byte and its operand bytes back (R61). -/
theorem decodeLz_encodes_back {bs rest : Bytes} {i : Instr} (h : decodeLz bs = .ok i rest) :
    i.wellFormed = true ∧ ∃ pre, encode i = some (.lz, pre) ∧ bs = pre ++ rest := by
  rcases decodeLz_ok_cases h with ⟨c, data, rfl, rfl, hl, h1, h8⟩ | ⟨c, rfl, rfl, hc, h7⟩ | ⟨c, b, rfl, rfl, h1, h2⟩ |
      ⟨c, rfl, rfl, h1⟩
  · have hc : BitVec.ofNat 8 data.length = c := by rw [hl, BitVec.ofNat_toNat, BitVec.setWidth_eq]
    exact ⟨(runLength_iff _).2 (by omega), c :: data, by rw [encode, hc], rfl⟩
  · exact ⟨(litByte_iff c).2 (by omega), [c], rfl, rfl⟩
  · refine ⟨rfl, [c, b], ?_, rfl⟩
    rw [encode, brefWordOf_brefWord h1 h2, brefWord, hiByte_append, loByte_append]
  · exact ⟨rfl, [c], by rw [encode, spcByte_extract h1], rfl⟩

theorem encode_isSome (i : Instr) : (encode i).isSome = streamInstr i := by
  cases i <;> rfl

/-- Settles O3: in each encoding the fields that were cut out are all of the word. -/
theorem encodeOfDecode : Obligations.EncodeOfDecode := by
  refine ⟨fun e bs rest i h => ?_, encode_isSome⟩
  cases e with
  | lz => exact decodeLz_encodes_back h
  | cacheWord =>
    obtain ⟨v, rfl, hbs⟩ := decode_cacheWord_ok h
    exact ⟨decodeCacheWord_wellFormed v, _, encode_decodeCacheWord v, hbs⟩
  | entryHeader =>
    obtain ⟨x, rfl, hbs⟩ := decode_entryHeader_ok h
    exact ⟨decodeEntryHeader_wellFormed x, _, encode_decodeEntryHeader x, hbs⟩

/-- Settles O1. -/
theorem writtenWordsDecode : Obligations.WrittenWordsDecode := by
  unfold Obligations.WrittenWordsDecode
  decide

/-! ### The split of a code (R67) -/

theorem split_of_lt {cl code : U32} (h : code.toNat < splitModulus cl) :
    splitDict cl code = 0 ∧ splitKey cl code = code.toNat :=
  ⟨Nat.div_eq_of_lt h, Nat.mod_eq_of_lt h⟩

/-- Settles O28: the cap changes the modulus only from 32 on, where both moduli are above every code. -/
theorem codeSplit : Obligations.CodeSplit := by
  intro cl code
  by_cases h : 32 ≤ cl.toNat
  · have hcap : splitModulus cl = 2 ^ 32 := by rw [splitModulus, Nat.min_eq_right h]
    have hpow : code.toNat < 2 ^ cl.toNat := code.isLt.trans_le (Nat.pow_le_pow_right (by decide) h)
    obtain ⟨hdict, hkey⟩ := split_of_lt (hcap ▸ code.isLt)
    exact ⟨by rw [hdict, Nat.div_eq_of_lt hpow], by rw [hkey, Nat.mod_eq_of_lt hpow], fun _ => ⟨hdict, hkey⟩⟩
  · have hcap : splitModulus cl = 2 ^ cl.toNat := by rw [splitModulus, Nat.min_eq_left (Nat.le_of_not_le h)]
    exact ⟨by rw [splitDict, hcap], by rw [splitKey, hcap], fun h' => absurd h' h⟩

/-! ### The fetches that run an instruction (R81, R122, R140) -/

section Fetches

variable {s : State}

theorem fetchLz_of_decodeLz (h : s.ip < s.input.length) {i : Instr} {rest : Bytes}
    (hd : decodeLz s.lzWindow = .ok i rest) : fetchLz s = .run i (s.latchControl s.input[s.ip]) := by
  rw [fetchLz, if_pos h, memRead8_of_lt h]
  simp only [fetchRead, hd]

theorem fetchCode_of_peek32 {f : Frame} {m : Memory} {w : U32} (hm : s.space f.space = some m)
    (hw : peek32 m f.base f.n f.bp = some w) (h8 : 8 ≤ f.rem) :
    fetchCode f s = .run (decodeCacheWord s.cacheTable[cacheIndex w])
      (s.latchWindow w s.cacheTable[cacheIndex w] f.bp) := by
  have hpad : ¬ (f.rem < 8 ∧ w = 0) := fun h => absurd h.1 (Nat.not_lt.2 h8)
  rw [fetchCode, if_neg (by omega), hm]
  simp only [fetchRead, hw, if_neg hpad]

theorem fetchHdEntry_of_held {D : Memory} (hv : s.clValid = true)
    (hD : s.dicts[splitDict s.codeLength s.hd.code]? = some D) :
    fetchHdEntry s = fetchOffset D
      (s.latchSplit (splitDict s.codeLength s.hd.code) (splitKey s.codeLength s.hd.code)) := by
  have hs : s.splitCode = s.latchSplit (splitDict s.codeLength s.hd.code) (splitKey s.codeLength s.hd.code) :=
    if_pos hv
  obtain ⟨hlt, _⟩ := List.getElem?_eq_some_iff.1 hD
  have hheld : ¬ (s.clValid = false ∨ s.dictsCount ≤ splitDict s.codeLength s.hd.code) := by
    rw [hv, State.dictsCount]
    simpa using hlt
  rw [fetchHdEntry, hs]
  simp only [State.latchSplit_hd, if_neg hheld, hD, fetchRead]

theorem le_length_of_memRead16 {m : Memory} {a : Nat} {x : U16} (h : memRead16 m a = some x) : a + 2 ≤ m.length := by
  obtain ⟨y, hy, _⟩ := Option.map_eq_some_iff.1 h
  exact memRead_isSome.1 (by rw [hy]; rfl)

theorem fetchOffset_of_memRead16 {D : Memory} {off : U16} (h : memRead16 D (2 * s.hd.key) = some off) :
    fetchOffset D s = fetchHeader D (s.latchOff off) := by
  rw [fetchOffset, if_neg (Nat.not_lt.2 (le_length_of_memRead16 h)), h]
  rfl

theorem fetchHeader_of_memRead16 {D : Memory} {x : U16} (h : memRead16 D s.hd.off.toNat = some x)
    (hl : s.hd.off.toNat + 2 + (entryLen x).toNat ≤ D.length) :
    fetchHeader D s = .run (decodeEntryHeader x) (s.latchSymLen x) := by
  rw [fetchHeader, if_neg (Nat.not_lt.2 (le_length_of_memRead16 h)), h]
  simp only [fetchRead, if_neg (Nat.not_lt.2 hl)]

end Fetches

/-! ### The fetch of a placed word (notes/assumptions/12.md) -/

theorem step_of_fetch {s t : State} {i : Instr} (h : fetch s = .run i t) : step s = exec i t := by
  rw [step, h]

/-- The first instruction of a DECOMP_PALM that has just entered its loop (R80, R81). -/
theorem step_withLzBytes (s : State) {c : Byte} {tl rest : Bytes} {i : Instr} (h : decodeLz (c :: tl) = .ok i rest) :
    step (s.withLzBytes (c :: tl)) = exec i ((s.withLzBytes (c :: tl)).latchControl c) :=
  step_of_fetch (fetchLz_of_decodeLz (s := s.withLzBytes (c :: tl)) (Nat.succ_pos _) (decodeLz_append h _))

/-- The first code of a DECOMP_HUFF of four zero bytes is read through cache entry 0 (R122). -/
theorem step_withCacheWord (s : State) (v : U32) :
    step (s.withCacheWord v) = exec (decodeCacheWord v) ((s.withCacheWord v).latchWindow 0 v 0) := by
  have hw : peek32 [0, 0, 0, 0] 0 4 0 = some 0 := by decide
  have hv : (s.withCacheWord v).cacheTable[cacheIndex 0] = v := Vector.getElem_set_self ..
  have hf := fetchCode_of_peek32 (s := s.withCacheWord v) (f := outerFrame [0, 0, 0, 0]) rfl hw (by decide)
  rw [hv] at hf
  exact step_of_fetch hf

/-- A u16 stored with its first byte most significant is read back (R41). -/
theorem memRead16_bytes (pre post : Bytes) (h : U16) :
    memRead16 (pre ++ hiByte h :: loByte h :: post) pre.length = some h := by
  have hn : beNat [hiByte h, loByte h] = h.toNat := by
    calc beNat [hiByte h, loByte h] = (hiByte h).toNat * 256 + (loByte h).toNat := by simp [beNat]
      _ = (hiByte h ++ loByte h).toNat := (toNat_append_eq_add (hiByte h) (loByte h)).symm
      _ = h.toNat := by rw [hiByte_append_loByte]
  have hr : memRead (pre ++ hiByte h :: loByte h :: post) pre.length 2 = some h.toNat := by
    rw [memRead_of_le (by simp), List.drop_left]
    exact congrArg some hn
  rw [memRead16, hr, Option.map_some, BitVec.ofNat_toNat, BitVec.setWidth_eq]

/-- The blob that `State.withEntryHeader` places: one offset, the header it names and a body of zeros. -/
def entryBlob (h : U16) : Bytes := [0, 2, hiByte h, loByte h] ++ List.replicate (entryLen h).toNat 0

theorem withEntryHeader_dicts (s : State) (h : U16) : (s.withEntryHeader h).dicts = [entryBlob h] := rfl

/-- The entry of code 0 in that blob: key 0, offset 2, and the header there (R140 to R144). -/
theorem step_withEntryHeader (s : State) (h : U16) :
    step (s.withEntryHeader h) =
      exec (decodeEntryHeader h) ((((s.withEntryHeader h).latchSplit 0 0).latchOff 2).latchSymLen h) := by
  obtain ⟨hdict, hkey⟩ : splitDict 0 0 = 0 ∧ splitKey 0 0 = 0 := split_of_lt (by decide)
  have hoff : memRead16 (entryBlob h) 0 = some 2 := memRead16_bytes [] _ 2
  have hhdr : memRead16 (entryBlob h) 2 = some h := memRead16_bytes [0, 2] _ h
  have hlen : 2 + 2 + (entryLen h).toNat ≤ (entryBlob h).length := by
    rw [entryBlob, List.length_append, List.length_replicate]
    exact Nat.le_refl _
  have hD : (s.withEntryHeader h).dicts[splitDict 0 0]? = some (entryBlob h) := by
    rw [withEntryHeader_dicts, hdict]
    rfl
  apply step_of_fetch
  calc fetch (s.withEntryHeader h)
    _ = fetchOffset (entryBlob h) ((s.withEntryHeader h).latchSplit (splitDict 0 0) (splitKey 0 0)) :=
      fetchHdEntry_of_held (s := s.withEntryHeader h) rfl hD
    _ = fetchOffset (entryBlob h) ((s.withEntryHeader h).latchSplit 0 0) := by rw [hdict, hkey]
    _ = fetchHeader (entryBlob h) (((s.withEntryHeader h).latchSplit 0 0).latchOff 2) := fetchOffset_of_memRead16 hoff
    _ = _ := fetchHeader_of_memRead16 hhdr hlen

/-- Settles O57: the number of bits tells in which of the three fetches the word stands. -/
theorem placedWordRuns : Obligations.PlacedWordRuns := by
  intro s nbits w i h
  simp only [decodeTableWord, layoutWord] at h
  simp only [State.withFetchWord, State.placeWord, layoutWord]
  cases he : encodingOfBits nbits with
  | none => simp only [he] at h; cases h
  | some e =>
    simp only [he] at h ⊢
    cases e with
    | lz =>
      cases hd : decode .lz (lzBytesOfWord maxLzBytes (w % 2 ^ nbits)) with
      | ok j rest =>
        simp only [hd] at h
        cases h
        refine ⟨_, ?_, ?_, step_withLzBytes s hd⟩ <;> rfl
      | error e => simp only [hd] at h; cases h
    | cacheWord =>
      have hd := decode_cacheWord_bytesOf32 (BitVec.ofNat 32 w) []
      rw [List.append_nil] at hd
      simp only [hd] at h
      cases h
      refine ⟨_, ?_, ?_, step_withCacheWord s _⟩ <;> rfl
    | entryHeader =>
      have hd := decode_entryHeader_bytes (BitVec.ofNat 16 w) []
      rw [List.append_nil] at hd
      simp only [hd] at h
      cases h
      refine ⟨_, ?_, ?_, step_withEntryHeader s _⟩ <;> rfl

end Sys2Proof.Machine
end

section
/-! Proofs of the LZ family (40_lz_stream.md): the LZ instructions, one turn of the LZ loop, a DECOMP_PALM run to its
end beside the reference, and the end of every command. -/

namespace Sys2Proof.Machine

open Sys2Proof

/-! ### Capacity and appends (R184) -/

theorem State.fits_iff_capacityFor {s : State} {k : Nat} : s.fits k = true ↔ s.capacityFor k := State.fits_iff

theorem emitLz_of_capacityFor {s : State} {bs : Bytes} (h : s.capacityFor bs.length) (size : Nat) :
    emitLz bs size s = .next ((s.appendOut bs).advance size) := by
  rw [emitLz, if_pos (State.fits_iff_capacityFor.2 h)]

theorem emitLz_of_not_capacityFor {s : State} {bs : Bytes} (h : ¬ s.capacityFor bs.length) (size : Nat) :
    emitLz bs size s = .next (s.raise .outOverflow s.ip) := by
  rw [emitLz, if_neg fun hf => h (State.fits_iff_capacityFor.1 hf)]

/-! ### LIT, RUN and SPC (R82, R83, R85) -/

/-- Settles O10. -/
theorem litResult : Obligations.LitResult := fun _ _ =>
  ⟨fun h => emitLz_of_capacityFor h 1, fun h => emitLz_of_not_capacityFor h 1⟩

theorem execRun_of_truncated {data : Bytes} {s : State} (h : s.input.length < s.ip + 1 + data.length) :
    execRun data s = .next (s.raise .lzTruncated s.ip) := if_pos h

theorem execRun_of_le {data : Bytes} {s : State} (h : s.ip + 1 + data.length ≤ s.input.length) :
    execRun data s = emitLz data (1 + data.length) s := if_neg (Nat.not_lt.2 h)

/-- Settles O11. -/
theorem runResult : Obligations.RunResult := by
  refine ⟨fun data s => ⟨execRun_of_truncated, fun h hc => ?_, fun h hc => ?_⟩, fun c hc => ?_, fun low => ?_⟩
  · exact (execRun_of_le h).trans (emitLz_of_not_capacityFor hc _)
  · exact (execRun_of_le h).trans (emitLz_of_capacityFor hc _)
  · have := (litByte_iff c).1 hc
    omega
  · rw [spcChar_toNat]
    omega

/-- The character of an SPC is its control byte with bit 7 changed (R64). -/
theorem spcChar_eq_xor {c : Byte} {low : BitVec 6} (h : c.toNat = 192 + low.toNat) : spcChar low = c ^^^ 0x80 := by
  have hc : 0b11#2 ++ low = c := BitVec.eq_of_toNat_eq (by rw [spcByte_toNat, h])
  rw [spcChar, hc]

/-- Settles O13. -/
theorem spcResult : Obligations.SpcResult := by
  intro c low s h
  rw [← spcChar_eq_xor h]
  exact ⟨fun hc => emitLz_of_capacityFor hc 1, fun hc => emitLz_of_not_capacityFor hc 1⟩

/-! ### BREF (R84)

The copy reads a byte that the same copy may have appended: `dist` before the `k`-th appended byte stands the byte that
the closed form gives for `k`. -/

/-- The `k`-th byte that a back-reference appends, in the closed form of R84. -/
def periodicByte (out : Bytes) (dist k : Nat) : Byte := out.getD (out.length - dist + k % dist) 0

@[simp] theorem periodicCopy_length (out : Bytes) (dist len : Nat) : (periodicCopy out dist len).length = len := by
  simp [periodicCopy]

theorem periodicCopy_succ (out : Bytes) (dist k : Nat) :
    periodicCopy out dist (k + 1) = periodicCopy out dist k ++ [periodicByte out dist k] := by
  simp [periodicCopy, periodicByte, List.range_succ]

theorem getElem?_append_periodicCopy (out : Bytes) (dist : Nat) {k len : Nat} (h : k < len) :
    (out ++ periodicCopy out dist len)[out.length + k]? = some (periodicByte out dist k) := by
  simp [periodicCopy, periodicByte, h]

/-- The byte `dist` before place `k` of the copy is the `k`-th byte of the closed form: it is an old byte of the output
while `k < dist`, and after that the byte appended one period before. -/
theorem getElem?_append_periodicCopy_sub {out : Bytes} {dist k len : Nat} (h1 : 1 ≤ dist) (hd : dist ≤ out.length)
    (h : k ≤ len) :
    (out ++ periodicCopy out dist len)[out.length + k - dist]? = some (periodicByte out dist k) := by
  by_cases hk : k < dist
  · have hold : out.length - dist + k < out.length := by omega
    rw [show out.length + k - dist = out.length - dist + k by omega, List.getElem?_append_left hold, periodicByte,
      Nat.mod_eq_of_lt hk, List.getD_eq_getElem _ _ hold, List.getElem?_eq_getElem hold]
  · have hper : periodicByte out dist (k - dist) = periodicByte out dist k := by
      rw [periodicByte, periodicByte, Nat.mod_eq_sub_mod (Nat.not_lt.1 hk)]
    rw [show out.length + k - dist = out.length + (k - dist) by omega,
      getElem?_append_periodicCopy out dist (by omega), hper]

/-- The byte-serial copy goes on with the closed form from any place in it. -/
theorem copyBack_append_periodicCopy {out : Bytes} {dist : Nat} (h1 : 1 ≤ dist) (hd : dist ≤ out.length) (k j : Nat) :
    copyBack dist k (out ++ periodicCopy out dist j) = some (out ++ periodicCopy out dist (j + k)) := by
  induction k generalizing j with
  | zero => rfl
  | succ k ih =>
    have hr := getElem?_append_periodicCopy_sub h1 hd (Nat.le_refl j)
    rw [copyBack, memRead8_eq_getElem?, List.length_append, periodicCopy_length, hr]
    simp only
    rw [List.append_assoc, ← periodicCopy_succ, ih, Nat.add_right_comm, Nat.add_assoc]

theorem copyBack_eq_periodicCopy {out : Bytes} {dist : Nat} (h1 : 1 ≤ dist) (hd : dist ≤ out.length) (k : Nat) :
    copyBack dist k out = some (out ++ periodicCopy out dist k) := by
  simpa [periodicCopy] using copyBack_append_periodicCopy h1 hd k 0

theorem copyBref_of_badDistance {s : State} (h : s.lz.dist.toNat = 0 ∨ s.out.length < s.lz.dist.toNat) :
    copyBref s = .next (s.raise .lzBadDistance s.ip) := if_pos h

theorem copyBref_of_not_capacityFor {s : State} (h1 : 1 ≤ s.lz.dist.toNat) (hd : s.lz.dist.toNat ≤ s.out.length)
    (hc : ¬ s.capacityFor s.lz.len.toNat) : copyBref s = .next (s.raise .outOverflow s.ip) := by
  have hdist : ¬ (s.lz.dist.toNat = 0 ∨ s.outLen < s.lz.dist.toNat) := by unfold State.outLen; omega
  rw [copyBref, if_neg hdist, if_neg fun hf => hc (State.fits_iff_capacityFor.1 hf)]

theorem copyBref_of_capacityFor {s : State} (h1 : 1 ≤ s.lz.dist.toNat) (hd : s.lz.dist.toNat ≤ s.out.length)
    (hc : s.capacityFor s.lz.len.toNat) :
    copyBref s = .next ((s.appendOut (periodicCopy s.out s.lz.dist.toNat s.lz.len.toNat)).advance 2) := by
  have hdist : ¬ (s.lz.dist.toNat = 0 ∨ s.outLen < s.lz.dist.toNat) := by unfold State.outLen; omega
  rw [copyBref, if_neg hdist, if_pos (State.fits_iff_capacityFor.2 hc), copyBack_eq_periodicCopy h1 hd]
  rfl

theorem execBref_of_truncated {dist : BitVec 11} {l : BitVec 3} {s : State} (h : s.input.length < s.ip + 2) :
    execBref dist l s = .next (s.raise .lzTruncated s.ip) := if_pos h

theorem execBref_of_le {dist : BitVec 11} {l : BitVec 3} {s : State} (h : s.ip + 2 ≤ s.input.length) :
    execBref dist l s = copyBref (s.latchBref (brefWordOf dist l)) := if_neg (Nat.not_lt.2 h)

/-- The latches of a BREF are its fields (R63). -/
theorem latchBref_lz_fields (s : State) (dist : BitVec 11) (l : BitVec 3) :
    (s.latchBref (brefWordOf dist l)).lz.v.toNat = 32768 + 8 * dist.toNat + l.toNat ∧
      (s.latchBref (brefWordOf dist l)).lz.dist = dist ∧
      (s.latchBref (brefWordOf dist l)).lz.len.toNat = l.toNat + 3 := by
  rw [State.latchBref_lz]
  refine ⟨?_, brefDist_brefWordOf dist l, ?_⟩
  · rw [brefWordOf_toNat, Nat.mul_comm 8]
  · simp only [brefLenField_brefWordOf, BitVec.toNat_add, BitVec.toNat_setWidth, BitVec.toNat_ofNat]
    omega

/-- Settles O12: the byte-serial copy has the closed form. -/
theorem brefResult : Obligations.BrefResult := by
  intro dist l s
  refine ⟨execBref_of_truncated, fun h => ?_⟩
  obtain ⟨hv, hdist, hlen⟩ := latchBref_lz_fields s dist l
  refine ⟨(s.latchBref (brefWordOf dist l)).lz, rfl, hv, hdist, hlen, fun hd => ?_, fun h1 hd hc => ?_,
    fun h1 hd hc => ?_⟩ <;> refine (execBref_of_le h).trans ?_
  · exact copyBref_of_badDistance (by rw [hdist]; exact hd)
  · exact copyBref_of_not_capacityFor (by rw [hdist]; exact h1) (by rw [hdist]; exact hd) (by rw [hlen]; exact hc)
  · rw [copyBref_of_capacityFor (by rw [hdist]; exact h1) (by rw [hdist]; exact hd) (by rw [hlen]; exact hc), hdist,
      hlen]
    rfl

/-! ### One turn of the LZ loop (R80, R81) -/

/-- Settles O41. -/
theorem decompPalmEntry : Obligations.DecompPalmEntry := fun _ _ hs => if_neg hs

section Turn

variable {s : State} {c : Byte} {rest : Bytes}

theorem fetch_lz (hb : s.status = .busy) (he : s.engine = .lz) : fetch s = fetchLz s := by
  simp only [fetch, hb, he]

theorem step_lz_end (hb : s.status = .busy) (he : s.engine = .lz) (hip : s.input.length ≤ s.ip) :
    step s = .next (s.finish .ok) := by
  rw [step, fetch_lz hb he, fetchLz, if_neg (Nat.not_lt.2 hip)]

theorem input_at_ip (hd : s.input.drop s.ip = c :: rest) :
    ∃ h : s.ip < s.input.length, s.input[s.ip] = c ∧ s.input.length = s.ip + 1 + rest.length := by
  have hlen := congrArg List.length hd
  simp only [List.length_drop, List.length_cons] at hlen
  have h : s.ip < s.input.length := by omega
  rw [List.drop_eq_getElem_cons h] at hd
  exact ⟨h, (List.cons.inj hd).1, by omega⟩

theorem step_of_lzWindow (hb : s.status = .busy) (he : s.engine = .lz) (hd : s.input.drop s.ip = c :: rest)
    {i : Instr} {r : Bytes} (hw : decodeLz s.lzWindow = .ok i r) : step s = exec i (s.latchControl c) := by
  obtain ⟨h, hc, _⟩ := input_at_ip hd
  exact step_of_fetch ((fetch_lz hb he).trans (hc ▸ fetchLz_of_decodeLz h hw))

/-- What the bytes decode to without the zeros after the payload, they decode to with them. -/
theorem step_of_decodeLz (hb : s.status = .busy) (he : s.engine = .lz) (hd : s.input.drop s.ip = c :: rest)
    {i : Instr} {r : Bytes} (hi : decodeLz (c :: rest) = .ok i r) : step s = exec i (s.latchControl c) := by
  rw [← hd] at hi
  exact step_of_lzWindow hb he hd (decodeLz_append hi _)

/-- A RUN or a BREF that is not all there decodes with zeros for the missing bytes, and its first test is that they
exist (R82, R84). -/
theorem step_of_decodeLz_error (hb : s.status = .busy) (he : s.engine = .lz) (hd : s.input.drop s.ip = c :: rest)
    {e : DecodeError} (hi : decodeLz (c :: rest) = .error e) :
    step s = .next ((s.latchControl c).raise .lzTruncated s.ip) := by
  obtain ⟨_, _, hlen⟩ := input_at_ip hd
  have hw : s.lzWindow = c :: (rest ++ List.replicate 8 0) := by rw [State.lzWindow, hd]; rfl
  rcases decodeLz_error_cases hi with ⟨hnil, _⟩ | ⟨_, _, hbs, _, h1, h8, hshort⟩ | ⟨_, hbs, _, h1, h2⟩
  · cases hnil
  · cases hbs
    obtain ⟨_, hrun, _⟩ := controlByteClasses c (rest ++ List.replicate 8 0) (by simp)
    rw [step_of_lzWindow hb he hd (hw ▸ hrun ⟨h1, h8⟩)]
    exact execRun_of_truncated (by simp; omega)
  · cases hbs
    rw [step_of_lzWindow hb he hd (hw ▸ decodeLz_bref h1 h2 0 _)]
    exact execBref_of_truncated (by rw [State.latchControl_input, State.latchControl_ip, hlen, List.length_nil]; omega)

end Turn

/-- Settles O14. -/
theorem lzStepRunsDecoded : Obligations.LzStepRunsDecoded := by
  intro s i rest hb he hi
  cases hd : s.input.drop s.ip with
  | nil => rw [hd] at hi; cases hi
  | cons c tl =>
    obtain ⟨h, hc, _⟩ := input_at_ip hd
    rw [hd] at hi
    exact ⟨c, by rw [List.getElem?_eq_getElem h, hc], step_of_decodeLz hb he hd hi⟩

/-- Settles O16. -/
theorem lzLoopEnds : Obligations.LzLoopEnds := fun _ => step_lz_end

/-! ### The classes of the control byte (R82 to R85) -/

section Classes

variable {s : State} {c : Byte} {rest : Bytes}

theorem decodeLz_run_take (h1 : 1 ≤ c.toNat) (h8 : c.toNat ≤ 8) (hle : c.toNat ≤ rest.length) :
    decodeLz (c :: rest) = .ok (.run (rest.take c.toNat)) (rest.drop c.toNat) := by
  have hd := decodeLz_run h1 h8 (List.length_take_of_le hle) (rest.drop c.toNat)
  rwa [List.take_append_drop] at hd

theorem decodeLz_run_short (h1 : 1 ≤ c.toNat) (h8 : c.toNat ≤ 8) (hlt : rest.length < c.toNat) :
    decodeLz (c :: rest) = .error .truncatedRun :=
  (if_pos ⟨h1, h8⟩).trans (if_pos hlt)

theorem decodeLz_bref_short (h1 : 128 ≤ c.toNat) (h2 : c.toNat < 192) :
    decodeLz [c] = .error .truncatedBref :=
  (if_neg (by omega)).trans ((if_neg (Nat.not_lt.2 h1)).trans (if_pos h2))

/-- A RUN whose bytes exist (R82): the overflow, and the appended bytes. -/
theorem step_run (hb : s.status = .busy) (he : s.engine = .lz) (hd : s.input.drop s.ip = c :: rest)
    (h1 : 1 ≤ c.toNat) (h8 : c.toNat ≤ 8) (hle : c.toNat ≤ rest.length) :
    (¬ s.capacityFor c.toNat → step s = .next ((s.latchControl c).raise .outOverflow s.ip)) ∧
      (s.capacityFor c.toNat →
        step s = .next (((s.latchControl c).appendOut (rest.take c.toNat)).advance (1 + c.toNat))) := by
  obtain ⟨_, _, hlen⟩ := input_at_ip hd
  have hdata := List.length_take_of_le hle
  obtain ⟨_, hover, happ⟩ := runResult.1 (rest.take c.toNat) (s.latchControl c)
  rw [hdata] at hover happ
  have hin : s.ip + 1 + c.toNat ≤ s.input.length := by omega
  rw [step_of_decodeLz hb he hd (decodeLz_run_take h1 h8 hle)]
  exact ⟨hover hin, happ hin⟩

/-- LIT (R83). -/
theorem step_lit (hb : s.status = .busy) (he : s.engine = .lz) (hd : s.input.drop s.ip = c :: rest)
    (h0 : c.toNat = 0 ∨ 9 ≤ c.toNat) (h1 : c.toNat < 128) :
    (¬ s.capacityFor 1 → step s = .next ((s.latchControl c).raise .outOverflow s.ip)) ∧
      (s.capacityFor 1 → step s = .next (((s.latchControl c).appendOut [c]).advance 1)) := by
  rw [step_of_decodeLz hb he hd (decodeLz_lit h0 h1 rest)]
  exact (litResult c (s.latchControl c)).symm

/-- SPC (R85). -/
theorem step_spc (hb : s.status = .busy) (he : s.engine = .lz) (hd : s.input.drop s.ip = c :: rest)
    (h : 192 ≤ c.toNat) :
    (¬ s.capacityFor 2 → step s = .next ((s.latchControl c).raise .outOverflow s.ip)) ∧
      (s.capacityFor 2 → step s = .next (((s.latchControl c).appendOut [0x20, c ^^^ 0x80]).advance 1)) := by
  have hc : c.toNat = 192 + (c.extractLsb' 0 6).toNat := by rw [← spcByte_toNat, spcByte_extract h]
  rw [step_of_decodeLz hb he hd (decodeLz_spc h rest)]
  exact (spcResult c _ (s.latchControl c) hc).symm

/-- The operands of a BREF in the numbers of R63 and R84. -/
structure LzLatches.BrefOf (lz : LzLatches) (c b : Byte) : Prop where
  c_eq : lz.c = c
  v_eq : lz.v.toNat = c.toNat * 256 + b.toNat
  dist_eq : lz.dist.toNat = (c.toNat * 256 + b.toNat) / 8 % 2048
  len_eq : lz.len.toNat = (c.toNat * 256 + b.toNat) % 8 + 3

/-- A BREF whose second byte exists (R84): its two faults, and the copy in closed form. -/
theorem step_bref {b : Byte} {tl : Bytes} (hb : s.status = .busy) (he : s.engine = .lz)
    (hd : s.input.drop s.ip = c :: b :: tl) (h1 : 128 ≤ c.toNat) (h2 : c.toNat < 192) :
    ∃ lz : LzLatches, lz.BrefOf c b ∧
      ((lz.dist.toNat = 0 ∨ s.out.length < lz.dist.toNat) →
        step s = .next ({ s with lz := lz }.raise .lzBadDistance s.ip)) ∧
      (1 ≤ lz.dist.toNat → lz.dist.toNat ≤ s.out.length → ¬ s.capacityFor lz.len.toNat →
        step s = .next ({ s with lz := lz }.raise .outOverflow s.ip)) ∧
      (1 ≤ lz.dist.toNat → lz.dist.toNat ≤ s.out.length → s.capacityFor lz.len.toNat →
        step s = .next { s with
          lz := lz, out := s.out ++ periodicCopy s.out lz.dist.toNat lz.len.toNat, ip := s.ip + 2 }) := by
  obtain ⟨_, _, hlen⟩ := input_at_ip hd
  have hin : s.ip + 2 ≤ s.input.length := by rw [hlen, List.length_cons]; omega
  obtain ⟨lz, hc, hv, hdist, hl, hres⟩ :=
    (brefResult (brefDist (brefWord c b)) (brefLenField (brefWord c b)) (s.latchControl c)).2 hin
  have hd' := brefDist_toNat (brefWord c b)
  have hl' := brefLenField_toNat (brefWord c b)
  rw [brefWord_toNat] at hd' hl'
  rw [step_of_decodeLz hb he hd (decodeLz_bref h1 h2 b tl)]
  refine ⟨lz, ⟨hc, by omega, by rw [hdist, hd'], by omega⟩, ?_⟩
  rw [hdist, hl]
  exact hres

end Classes

/-- A step of the copy repeats the byte one period before it. -/
theorem periodicCopy_periodic {out : Bytes} {dist len : Nat} (h1 : 1 ≤ dist) (hd : dist ≤ out.length) {k : Nat}
    (h : k < len) : (out ++ periodicCopy out dist len)[out.length + k]? =
      (out ++ periodicCopy out dist len)[out.length + k - dist]? := by
  rw [getElem?_append_periodicCopy out dist h, getElem?_append_periodicCopy_sub h1 hd (Nat.le_of_lt h)]

/-- Settles O15: one lemma for each class of the control byte; the closed form of the copy is periodic. -/
theorem lzLoopTurn : Obligations.LzLoopTurn := by
  intro s c rest hb he hd
  refine ⟨fun ⟨h1, h8⟩ => ⟨fun hlt => ?_, fun hle => ?_, fun hle hc => ?_⟩, fun h => ?_,
    fun ⟨h1, h2⟩ => ⟨fun hnil => ?_, fun b tl hr => ?_⟩, step_spc hb he hd⟩
  · exact step_of_decodeLz_error hb he hd (decodeLz_run_short h1 h8 hlt)
  · exact (step_run hb he hd h1 h8 hle).1
  · rw [Nat.add_assoc]
    exact (step_run hb he hd h1 h8 hle).2 hc
  · exact step_lit hb he hd (by omega) (by omega)
  · subst hnil
    exact step_of_decodeLz_error hb he hd (decodeLz_bref_short h1 (by omega))
  · subst hr
    obtain ⟨lz, hlz, hbad, hover, hcopy⟩ := step_bref hb he hd h1 (by omega)
    refine ⟨lz, hlz.c_eq, hlz.v_eq, hlz.dist_eq, hlz.len_eq, hbad, hover, fun hd1 hd2 hc => ?_⟩
    exact ⟨_, by simp, by simp, fun k => periodicCopy_periodic hd1 hd2, hcopy hd1 hd2 hc⟩

/-! ### A turn beside the reference

One turn either appends bytes and advances, or faults at `ip`; the reference does the same with the same bytes. -/

/-- From `s` one turn of the LZ loop appends `bs` for `size` payload bytes, and so does the reference. The bounds on
`bs` are those of R87, met by a RUN of one byte, which takes two, and by a BREF of ten bytes, which takes two. -/
structure State.EmitsLz (s : State) (bs : Bytes) (size : Nat) : Prop where
  step_eq : ∃ lz, step s = .next { s with lz := lz, out := s.out ++ bs, ip := s.ip + size }
  reference_eq : ∀ k, lzReference s.params.outMax (k + 1) s.ip (s.input.drop s.ip) s.out =
    lzReference s.params.outMax k (s.ip + size) (s.input.drop (s.ip + size)) (s.out ++ bs)
  size_pos : 1 ≤ size
  size_le : s.ip + size ≤ s.input.length
  least : size ≤ 2 * bs.length
  most : bs.length ≤ 5 * size

/-- From `s` one turn of the LZ loop faults at `ip`, and so does the reference. -/
structure State.FaultsLz (s : State) (f : FaultName) : Prop where
  step_eq : ∃ lz, step s = .next ({ s with lz := lz }.raise f s.ip)
  reference_eq : ∀ k, lzReference s.params.outMax (k + 1) s.ip (s.input.drop s.ip) s.out = .fault f s.ip s.out

/-- From `s` one turn of the LZ loop does what the reference does. -/
def State.TurnsLz (s : State) : Prop := (∃ bs size, s.EmitsLz bs size) ∨ ∃ f, s.FaultsLz f

theorem overflows_eq_false {s : State} {k : Nat} (h : s.capacityFor k) :
    overflows s.params.outMax s.out k = false := by
  unfold overflows
  cases e : s.params.outMax with
  | none => rfl
  | some m => simpa using h m e

theorem overflows_eq_true {s : State} {k : Nat} (h : ¬ s.capacityFor k) :
    overflows s.params.outMax s.out k = true := by
  unfold State.capacityFor at h
  unfold overflows
  cases e : s.params.outMax with
  | none => simp [e] at h
  | some m => simpa [e] using h

/-! The reference by the class of its first byte (R82 to R85). -/

section Reference

variable {cap : Option Nat} {k ip : Nat} {c : Byte} {out : Bytes}

theorem lzReference_nil : lzReference cap k ip [] out = .ok out := by
  cases k <;> rfl

theorem lzReference_run (h1 : 1 ≤ c.toNat) (h8 : c.toNat ≤ 8) (rest : Bytes) :
    lzReference cap (k + 1) ip (c :: rest) out =
      if rest.length < c.toNat then .fault .lzTruncated ip out
      else if overflows cap out c.toNat then .fault .outOverflow ip out
      else lzReference cap k (ip + 1 + c.toNat) (rest.drop c.toNat) (out ++ rest.take c.toNat) :=
  if_pos ⟨h1, h8⟩

theorem lzReference_lit (h0 : c.toNat = 0 ∨ 9 ≤ c.toNat) (h1 : c.toNat < 128) (rest : Bytes) :
    lzReference cap (k + 1) ip (c :: rest) out =
      if overflows cap out 1 then .fault .outOverflow ip out
      else lzReference cap k (ip + 1) rest (out ++ [c]) :=
  (if_neg (by omega)).trans (if_pos h1)

theorem lzReference_bref_short (h1 : 128 ≤ c.toNat) (h2 : c.toNat < 192) :
    lzReference cap (k + 1) ip [c] out = .fault .lzTruncated ip out :=
  (if_neg (by omega)).trans ((if_neg (Nat.not_lt.2 h1)).trans (if_pos h2))

theorem lzReference_bref {lz : LzLatches} {b : Byte} (h : lz.BrefOf c b) (h1 : 128 ≤ c.toNat) (h2 : c.toNat < 192)
    (tl : Bytes) :
    lzReference cap (k + 1) ip (c :: b :: tl) out =
      if lz.dist.toNat = 0 ∨ out.length < lz.dist.toNat then .fault .lzBadDistance ip out
      else if overflows cap out lz.len.toNat then .fault .outOverflow ip out
      else lzReference cap k (ip + 2) tl (out ++ periodicCopy out lz.dist.toNat lz.len.toNat) := by
  rw [h.dist_eq, h.len_eq]
  exact (if_neg (by omega)).trans ((if_neg (Nat.not_lt.2 h1)).trans (if_pos h2))

theorem lzReference_spc (h : 192 ≤ c.toNat) (rest : Bytes) :
    lzReference cap (k + 1) ip (c :: rest) out =
      if overflows cap out 2 then .fault .outOverflow ip out
      else lzReference cap k (ip + 1) rest (out ++ [0x20, c ^^^ 0x80]) :=
  (if_neg (by omega)).trans ((if_neg (by omega)).trans (if_neg (Nat.not_lt.2 h)))

end Reference

/-! Each class of the control byte turns as its reference does. -/

section Turns

variable {s : State} {c : Byte} {rest : Bytes}

theorem drop_past_control (hd : s.input.drop s.ip = c :: rest) (k : Nat) :
    s.input.drop (s.ip + 1 + k) = rest.drop k := by
  rw [Nat.add_assoc, ← List.drop_drop, hd, Nat.add_comm 1, List.drop_succ_cons]

theorem turnsLz_run (hb : s.status = .busy) (he : s.engine = .lz) (hd : s.input.drop s.ip = c :: rest)
    (h1 : 1 ≤ c.toNat) (h8 : c.toNat ≤ 8) : s.TurnsLz := by
  obtain ⟨_, _, hlen⟩ := input_at_ip hd
  have href := fun k => lzReference_run (cap := s.params.outMax) (k := k) (ip := s.ip) (out := s.out) h1 h8 rest
  rw [← hd] at href
  by_cases hle : c.toNat ≤ rest.length
  · obtain ⟨hover, happ⟩ := step_run hb he hd h1 h8 hle
    simp only [if_neg (Nat.not_lt.2 hle)] at href
    by_cases hc : s.capacityFor c.toNat
    · refine .inl ⟨rest.take c.toNat, 1 + c.toNat, ⟨_, happ hc⟩, fun k => ?_, by omega, by omega, ?_, ?_⟩
      · rw [href, overflows_eq_false hc, ← Nat.add_assoc, drop_past_control hd]
        rfl
      · rw [List.length_take_of_le hle]; omega
      · rw [List.length_take_of_le hle]; omega
    · exact .inr ⟨.outOverflow, ⟨_, hover hc⟩, fun k => by rw [href, overflows_eq_true hc, if_pos rfl]⟩
  · have hshort := Nat.lt_of_not_le hle
    exact .inr ⟨.lzTruncated, ⟨_, step_of_decodeLz_error hb he hd (decodeLz_run_short h1 h8 hshort)⟩,
      fun k => by rw [href, if_pos hshort]⟩

/-- LIT and SPC, which take the control byte alone and append one byte or two. -/
theorem turnsLz_of_emit {bs : Bytes} (hd : s.input.drop s.ip = c :: rest) (h1 : 1 ≤ bs.length) (h5 : bs.length ≤ 5)
    (hstep : (¬ s.capacityFor bs.length → step s = .next ((s.latchControl c).raise .outOverflow s.ip)) ∧
      (s.capacityFor bs.length → step s = .next (((s.latchControl c).appendOut bs).advance 1)))
    (href : ∀ k, lzReference s.params.outMax (k + 1) s.ip (c :: rest) s.out =
      if overflows s.params.outMax s.out bs.length then .fault .outOverflow s.ip s.out
      else lzReference s.params.outMax k (s.ip + 1) rest (s.out ++ bs)) : s.TurnsLz := by
  obtain ⟨_, _, hlen⟩ := input_at_ip hd
  rw [← hd] at href
  by_cases hc : s.capacityFor bs.length
  · refine .inl ⟨bs, 1, ⟨_, hstep.2 hc⟩, fun k => ?_, by omega, by omega, by omega, by omega⟩
    rw [href, overflows_eq_false hc, drop_past_control hd 0]
    rfl
  · exact .inr ⟨.outOverflow, ⟨_, hstep.1 hc⟩, fun k => by rw [href, overflows_eq_true hc, if_pos rfl]⟩

theorem turnsLz_bref {b : Byte} {tl : Bytes} (hb : s.status = .busy) (he : s.engine = .lz)
    (hd : s.input.drop s.ip = c :: b :: tl) (h1 : 128 ≤ c.toNat) (h2 : c.toNat < 192) : s.TurnsLz := by
  obtain ⟨_, _, hlen⟩ := input_at_ip hd
  rw [List.length_cons] at hlen
  obtain ⟨lz, hlz, hbad, hover, hcopy⟩ := step_bref hb he hd h1 h2
  have href := fun k => lzReference_bref (cap := s.params.outMax) (k := k) (ip := s.ip) (out := s.out) hlz h1 h2 tl
  rw [← hd] at href
  by_cases hdist : lz.dist.toNat = 0 ∨ s.out.length < lz.dist.toNat
  · exact .inr ⟨.lzBadDistance, ⟨_, hbad hdist⟩, fun k => by rw [href, if_pos hdist]⟩
  · simp only [if_neg hdist] at href
    by_cases hc : s.capacityFor lz.len.toNat
    · have hcount := hlz.len_eq
      refine .inl ⟨_, 2, ⟨_, hcopy (by omega) (by omega) hc⟩, fun k => ?_, by omega, by omega, ?_, ?_⟩
      · rw [href, overflows_eq_false hc, drop_past_control hd 1]
        rfl
      · rw [periodicCopy_length]; omega
      · rw [periodicCopy_length]; omega
    · exact .inr ⟨.outOverflow, ⟨_, hover (by omega) (by omega) hc⟩,
        fun k => by rw [href, overflows_eq_true hc, if_pos rfl]⟩

end Turns

/-- Every turn of the LZ loop does what the reference does, by the classes of R81. -/
theorem turnsLz {s : State} (hb : s.status = .busy) (he : s.engine = .lz) (hip : s.ip < s.input.length) :
    s.TurnsLz := by
  have hd := List.drop_eq_getElem_cons hip
  generalize s.input[s.ip] = c, s.input.drop (s.ip + 1) = rest at hd
  by_cases hrun : 1 ≤ c.toNat ∧ c.toNat ≤ 8
  · exact turnsLz_run hb he hd hrun.1 hrun.2
  by_cases hlit : c.toNat < 128
  · have h0 : c.toNat = 0 ∨ 9 ≤ c.toNat := by omega
    exact turnsLz_of_emit (bs := [c]) hd (by simp) (by simp) (step_lit hb he hd h0 hlit) fun _ =>
      lzReference_lit h0 hlit rest
  by_cases hbref : c.toNat < 192
  · cases rest with
    | nil =>
      exact .inr ⟨.lzTruncated, ⟨_, step_of_decodeLz_error hb he hd (decodeLz_bref_short (by omega) hbref)⟩,
        fun k => by rw [hd]; exact lzReference_bref_short (by omega) hbref⟩
    | cons b tl => exact turnsLz_bref hb he hd (by omega) hbref
  · have hspc : 192 ≤ c.toNat := by omega
    exact turnsLz_of_emit (bs := [0x20, c ^^^ 0x80]) hd (by simp) (by simp) (step_spc hb he hd hspc) fun _ =>
      lzReference_spc hspc rest

/-! ### A running command and its end

`s.RunsTo u`: the command running in `s` ends in `u`, the first state in which none runs. -/

/-- From `s`, steps through running states lead to `u`, where no command runs. -/
inductive State.RunsTo : State → State → Prop where
  | here {s : State} (hs : s.status ≠ .busy) : State.RunsTo s s
  | next {s t u : State} (hb : s.status = .busy) (hx : step s = .next t) (hu : State.RunsTo t u) : State.RunsTo s u

section Runs

variable {s t u : State} {k : Nat}

theorem reaches_succ_of_step (hx : step s = .next t) : Reaches s (k + 1) u ↔ Reaches t k u := by
  have hcore : Sys2Proof.core.step s = .next t := hx
  simp only [Reaches, Host.Core.run, hcore]

theorem Reaches.exists_step (h : Reaches s (k + 1) u) : ∃ t, step s = .next t := by
  have hcore : Sys2Proof.core.step s = step s := rfl
  simp only [Reaches, Host.Core.run, hcore] at h
  cases hx : step s with
  | next t => exact ⟨t, rfl⟩
  | fault r => simp [hx] at h
  | refused r => simp [hx] at h

theorem State.RunsTo.reaches (h : s.RunsTo u) : ∃ k, Reaches s k u := by
  induction h with
  | here _ => exact ⟨0, rfl⟩
  | next _ hx _ ih =>
    obtain ⟨k, hk⟩ := ih
    exact ⟨k + 1, (reaches_succ_of_step hx).2 hk⟩

theorem State.RunsTo.not_busy (h : s.RunsTo u) : u.status ≠ .busy := by
  induction h with
  | here hs => exact hs
  | next _ _ _ ih => exact ih

theorem State.RunsTo.eq_of_not_busy (h : s.RunsTo u) (hs : s.status ≠ .busy) : u = s := by
  cases h with
  | here _ => rfl
  | next hb _ _ => exact absurd hb hs

/-- A run whose states before the last are BUSY ends the command. -/
theorem State.RunsTo.of_reaches (hr : Reaches s k u) (hbusy : ∀ j w, j < k → Reaches s j w → w.status = .busy)
    (hu : u.status ≠ .busy) : s.RunsTo u := by
  induction k generalizing s with
  | zero =>
    cases hr
    exact .here hu
  | succ k ih =>
    obtain ⟨t, hx⟩ := hr.exists_step
    have hrest := ih ((reaches_succ_of_step hx).1 hr) fun j w hj hw =>
      hbusy (j + 1) w (by omega) ((reaches_succ_of_step hx).2 hw)
    exact .next (hbusy 0 s (by omega) rfl) hx hrest

end Runs

/-! ### DECOMP_PALM and the reference (R80 to R87) -/

/-- The state `u` is how a DECOMP_PALM that runs in `s` ends when the reference ends in this way. -/
def LzEnd.EndsIn (s u : State) : LzEnd → Prop
  | .ok o => u.status = .idle ∧ u.result = some .ok ∧ u.out = o ∧ u.faultCode = s.faultCode ∧
      u.faultPos = s.faultPos ∧ u.ip = s.input.length
  | .fault f pos o => u.status = .fault ∧ u.result = some (.fault f) ∧ u.out = o ∧ u.faultCode = f ∧ u.faultPos = pos

/-- The command running in `s` ends as the reference does with fuel `k`, and the configuration stays as it was. -/
def State.EndsAsReference (s : State) (k : Nat) : Prop :=
  ∃ u, s.RunsTo u ∧ (lzReference s.params.outMax k s.ip (s.input.drop s.ip) s.out).EndsIn s u ∧
    s.SameConfig u ∧ u.warnLeftover = s.warnLeftover

section Reference

variable {s : State}

theorem endsAsReference_of_end (hb : s.status = .busy) (he : s.engine = .lz) (hip : s.ip = s.input.length) (k : Nat) :
    s.EndsAsReference k := by
  have hx := step_lz_end hb he (Nat.le_of_eq hip.symm)
  refine ⟨_, .next hb hx (.here (by simp)), ?_, (s.hdWrites_finish .ok).sameConfig, rfl⟩
  rw [List.drop_eq_nil_of_le (Nat.le_of_eq hip.symm), lzReference_nil]
  exact ⟨rfl, rfl, rfl, rfl, rfl, hip⟩

theorem endsAsReference_of_faultsLz (hb : s.status = .busy) {f : FaultName} (h : s.FaultsLz f) (k : Nat) :
    s.EndsAsReference (k + 1) := by
  obtain ⟨lz, hx⟩ := h.step_eq
  have hw : s.LzWrites { s with lz := lz } := ⟨rfl, List.prefix_rfl⟩
  refine ⟨_, .next hb hx (.here (by simp)), ?_, (hw.raise f s.ip).sameConfig, rfl⟩
  rw [h.reference_eq]
  exact ⟨rfl, rfl, rfl, rfl, rfl⟩

/-- Induction on the fuel of the reference, which bounds the payload bytes that are left: each turn takes at least one.
-/
theorem endsAsReference (k : Nat) (hb : s.status = .busy) (he : s.engine = .lz) (hip : s.ip ≤ s.input.length)
    (hk : s.input.length ≤ s.ip + k) : s.EndsAsReference k := by
  induction k generalizing s with
  | zero => exact endsAsReference_of_end hb he (Nat.le_antisymm hip hk) 0
  | succ k ih =>
    rcases Nat.eq_or_lt_of_le hip with hend | hlt
    · exact endsAsReference_of_end hb he hend _
    rcases turnsLz hb he hlt with ⟨bs, size, h⟩ | ⟨f, h⟩
    · obtain ⟨lz, hx⟩ := h.step_eq
      have hfuel : s.input.length ≤ s.ip + size + k := by have := h.size_pos; omega
      have hw : s.LzWrites { s with lz := lz, out := s.out ++ bs, ip := s.ip + size } := ⟨rfl, List.prefix_append ..⟩
      obtain ⟨u, hru, hend, hconfig, hwarn⟩ :=
        ih (s := { s with lz := lz, out := s.out ++ bs, ip := s.ip + size }) hb he h.size_le hfuel
      refine ⟨u, .next hb hx hru, ?_, hw.sameConfig.trans hconfig, hwarn⟩
      rw [h.reference_eq]
      exact hend
    · exact endsAsReference_of_faultsLz hb h k

end Reference

/-- Settles O17: the payload's length is fuel enough, since every turn takes a byte. -/
theorem decompPalmMeetsReference : Obligations.DecompPalmMeetsReference := by
  intro p s hs
  have hentry := decompPalmEntry p s (by simp [hs])
  obtain ⟨u, hru, hend, hc, hwarn⟩ := endsAsReference p.length
    (s := { s with status := .busy, input := p, engine := .lz, ip := 0 }) rfl rfl (by simp) (by simp)
  obtain ⟨k, hk⟩ := hru.reaches
  refine ⟨_, k, u, hentry, hk, ?_, hc.params, hc.host, hwarn, hc.huffValid, hc.cacheTable, hc.baseTable, hc.dicts,
    hc.codeLength, hc.clValid⟩
  rw [List.drop_zero] at hend
  cases e : lzReference s.params.outMax p.length 0 p s.out <;> exact e ▸ hend

/-- Along a run to a successful end OUT grows within the bounds of R87, by the payload bytes still to come. -/
theorem State.RunsTo.lz_growth {s u : State} (h : s.RunsTo u) (hu : u.status = .idle) (hb : s.status = .busy)
    (he : s.engine = .lz) (hip : s.ip ≤ s.input.length) :
    ∃ added, u.out = s.out ++ added ∧ s.input.length ≤ s.ip + 2 * added.length ∧
      added.length ≤ 5 * (s.input.length - s.ip) := by
  induction h with
  | here hs => exact absurd hb hs
  | @next s t u _ hx hru ih =>
    by_cases hlt : s.ip < s.input.length
    · rcases turnsLz hb he hlt with ⟨bs, size, hturn⟩ | ⟨f, hturn⟩ <;> obtain ⟨lz, hx'⟩ := hturn.step_eq
      · cases hx.symm.trans hx'
        obtain ⟨added, hout, hleast, hmost⟩ := ih hu hb he hturn.size_le
        dsimp only at hout hleast hmost
        obtain ⟨_, _, _, hsize, hturnLeast, hturnMost⟩ := hturn
        refine ⟨bs ++ added, by rw [hout, List.append_assoc], ?_, ?_⟩
        · rw [List.length_append]; omega
        · rw [List.length_append]; omega
      · cases hx.symm.trans hx'
        cases hru.eq_of_not_busy (by simp)
        cases hu
    · cases hx.symm.trans (step_lz_end hb he (Nat.not_lt.1 hlt))
      cases hru.eq_of_not_busy (by simp)
      exact ⟨[], by simp, by simp; omega, by simp⟩

/-- Settles O18. -/
theorem lzOutputGrowth : Obligations.LzOutputGrowth := by
  intro p s t k u hs hx hr hbusy hu
  cases hx.symm.trans (decompPalmEntry p s (by simp [hs]))
  have hrun := State.RunsTo.of_reaches hr hbusy (by simp [hu])
  obtain ⟨added, hout, hleast, hmost⟩ := hrun.lz_growth hu rfl rfl (by simp)
  exact ⟨added, hout, by simpa using hleast, by simpa using hmost⟩

/-! ### Every command ends (R86, R130, R162)

An LZ turn takes a payload byte. A frame of the HD engine returns: a code takes bits of it, and the frame its entry may
open has a key that the guard does not hold, so that frames nest no deeper than there are keys. -/

/-- The running command ends. -/
def State.Halts (s : State) : Prop := ∃ u, s.RunsTo u

theorem State.halts_of_step {s t : State} (hb : s.status = .busy) (hx : step s = .next t) (ht : t.Halts) :
    s.Halts := by
  obtain ⟨u, hu⟩ := ht
  exact ⟨u, .next hb hx hu⟩

theorem State.halts_of_not_busy {s : State} (hs : s.status ≠ .busy) : s.Halts := ⟨s, .here hs⟩

theorem halts_of_lz {s : State} (hb : s.status = .busy) (he : s.engine = .lz) (hip : s.ip ≤ s.input.length) :
    s.Halts := by
  obtain ⟨u, hu, _⟩ := endsAsReference s.input.length hb he hip (by omega)
  exact ⟨u, hu⟩

/-- A DECOMP_HUFF runs with these frames, before a code of the innermost one or before that code's entry. -/
structure State.HdAt (s : State) (engine : Engine) (frames : List Frame) : Prop where
  inv : s.Inv
  busy : s.status = .busy
  engine_eq : s.engine = engine
  frames_eq : s.frames = frames

/-- From `s`, with frame `f` on top of `rest`, a code leads to `t`: into a fault, back to the frames below, or before
its entry with fewer bits left in the frame (R123, R127, R128). -/
def State.CodeMoves (s : State) (f : Frame) (rest : List Frame) (t : State) : Prop :=
  t.status = .fault ∨ (t.status = s.status ∧ t.engine = .hdCode ∧ t.frames = rest) ∨
    (t.status = s.status ∧ t.engine = .hdEntry ∧ ∃ f', f'.rem < f.rem ∧ t.frames = f' :: rest)

section Frames

variable {s t : State} {f : Frame} {rest fs : List Frame}

theorem returnFrame_moves (hs : s.frames = f :: rest) :
    s.returnFrame.status = s.status ∧ s.returnFrame.engine = .hdCode ∧ s.returnFrame.frames = rest := by
  rw [State.returnFrame_cons hs]
  exact ⟨rfl, rfl, rfl⟩

theorem consumeCode_moves {L : Nat} {code : U32} (hs : s.frames = f :: rest) (hL : 1 ≤ L)
    (h : consumeCode f rest L code s = .next t) : s.CodeMoves f rest t := by
  rcases consumeCode_eq_next h with ⟨hle, rfl⟩ | ⟨_, _, rfl⟩ | ⟨_, _, _, rfl⟩ | ⟨_, _, _, rfl⟩
  · refine .inr (.inr ⟨rfl, rfl, _, ?_, rfl⟩)
    unfold Frame.rem at hle ⊢
    dsimp only
    omega
  · exact .inr (.inl (returnFrame_moves (s := s.latchCode L code f.bp) hs))
  · exact .inr (.inl (returnFrame_moves (s := (s.latchCode L code f.bp).setWarn) hs))
  · exact .inl rfl

theorem exec_decodeCacheWord_moves {v : U32} (hs : s.frames = f :: rest)
    (h : exec (decodeCacheWord v) s = .next t) : s.CodeMoves f rest t := by
  have hpos : ∀ {len : BitVec 5}, len ≠ 0 → 1 ≤ len.toNat := fun h =>
    Nat.pos_of_ne_zero fun h0 => h (BitVec.eq_of_toNat_eq h0)
  rcases decodeCacheWord_cases v with ⟨_, hi⟩ | ⟨_, hi⟩ <;> rw [hi] at h
  · obtain ⟨f', rest', hs', ⟨_, rfl⟩ | ⟨h0, h⟩⟩ := withCode_eq_next h
    · exact .inl rfl
    · cases hs.symm.trans hs'
      exact consumeCode_moves hs (hpos h0) h
  · obtain ⟨f', rest', hs', ⟨_, rfl⟩ | ⟨_, _, rfl⟩ | ⟨h0, L, hL, h⟩⟩ :=
      execHcodeB_eq_next (u := cacheMaxcode v) (g := cacheIgnored v) h
    · exact .inl rfl
    · exact .inl rfl
    · cases hs.symm.trans hs'
      exact consumeCode_moves hs ((hpos h0).trans (scanBase_range hL).1) h

/-- Before a code the frame ends, or loses bits to the code, unless the command faults. -/
theorem State.HdAt.code_turn (h : s.HdAt .hdCode (f :: rest)) :
    ∃ t, step s = .next t ∧ (t.status ≠ .busy ∨ t.HdAt .hdCode rest ∨
      ∃ f', f'.rem < f.rem ∧ t.HdAt .hdEntry (f' :: rest)) := by
  obtain ⟨t, hx⟩ := stepNeverStops s h.inv
  have hinv := stepKeepsInvariant s t h.inv hx
  refine ⟨t, hx, ?_⟩
  rcases step_hdCode h.busy h.engine_eq hx with ⟨hnil, _⟩ | ⟨_, _, hs, rfl | ⟨m, w, _, _, _, _, hx⟩⟩
  · rw [h.frames_eq] at hnil
    cases hnil
  · obtain ⟨hb, he, hfr⟩ := returnFrame_moves h.frames_eq
    exact .inr (.inl ⟨hinv, hb.trans h.busy, he, hfr⟩)
  · have hmoves := exec_decodeCacheWord_moves (s := s.latchWindow w s.cacheTable[cacheIndex w] _) h.frames_eq hx
    rw [State.CodeMoves, State.latchWindow_status, h.busy] at hmoves
    rcases hmoves with hf | ⟨hb, he, hfr⟩ | ⟨hb, he, f', hrem, hfr⟩
    · exact .inl (by simp [hf])
    · exact .inr (.inl ⟨hinv, hb, he, hfr⟩)
    · exact .inr (.inr ⟨f', hrem, hinv, hb, he, hfr⟩)

/-- Before an entry the loop goes on, in the same frame or in a new one, unless the command faults. -/
theorem State.HdAt.entry_turn (h : s.HdAt .hdEntry fs) :
    ∃ t, step s = .next t ∧ (t.status ≠ .busy ∨ t.HdAt .hdCode fs ∨ ∃ g, t.HdAt .hdCode (g :: fs)) := by
  obtain ⟨t, hx⟩ := stepNeverStops s h.inv
  have hinv := stepKeepsInvariant s t h.inv hx
  refine ⟨t, hx, ?_⟩
  rcases step_hdEntry h.busy h.engine_eq hx with ⟨_, _, _, _, rfl⟩ |
      ⟨D, x, v, _, hv, _, _, _, _, _, _, _, _, _, _, hx⟩
  · exact .inl (by simp)
  have hb : v.status = .busy := by rw [hv]; exact h.busy
  have hfr : v.frames = fs := by rw [hv]; exact h.frames_eq
  rcases decodeEntryHeader_cases x with ⟨_, hi⟩ | ⟨_, hi⟩ <;> rw [hi] at hx
  · rcases execEntLit_eq_next hx with ⟨_, rfl⟩ | ⟨_, _, body, _, rfl⟩ | ⟨_, _, rfl⟩
    · exact .inl (by simp)
    · exact .inr (.inl ⟨hinv, hb, rfl, hfr⟩)
    · exact .inl (by simp)
  · rcases execEntRec_eq_next hx with ⟨_, rfl⟩ | ⟨_, _, rfl⟩ | ⟨_, _, rfl⟩
    · exact .inl (by simp)
    · exact .inr (.inr ⟨_, hinv, hb, rfl, congrArg (_ :: ·) hfr⟩)
    · exact .inl (by simp)

/-- The most frames there can be: one for each key, and the outermost. -/
def maxDepth : Nat := 2 ^ 32 + 1

/-- The guard holds no key twice, so it is no longer than there are keys (R146). -/
theorem State.Inv.frames_length_le (h : s.Inv) (hne : s.frames ≠ []) : s.frames.length ≤ maxDepth := by
  have hkeys := congrArg List.length (h.guard_stack hne)
  simp only [List.length_map, List.length_append, List.length_singleton] at hkeys
  have hcard := (h.guard_nodup.map BitVec.toFin_injective).length_le_card
  rw [List.length_map, Fintype.card_fin] at hcard
  rw [hkeys, maxDepth]
  omega

/-- A frame returns to the frames below it, or the command ends before: by the depth that is left, and in one frame by
the bits that are left. -/
theorem halts_of_hdCode_cons {s : State} {f : Frame} {rest : List Frame} (h : s.HdAt .hdCode (f :: rest))
    (after : ∀ t : State, t.HdAt .hdCode rest → t.Halts) : s.Halts := by
  obtain ⟨t, hx, hend | hret | ⟨f', hrem, hentry⟩⟩ := h.code_turn
  · exact State.halts_of_step h.busy hx (State.halts_of_not_busy hend)
  · exact State.halts_of_step h.busy hx (after t hret)
  have again : ∀ v : State, v.HdAt .hdCode (f' :: rest) → v.Halts := fun v hv => halts_of_hdCode_cons hv after
  refine State.halts_of_step h.busy hx ?_
  obtain ⟨v, hy, hend | hresume | ⟨g, hcall⟩⟩ := hentry.entry_turn
  · exact State.halts_of_step hentry.busy hy (State.halts_of_not_busy hend)
  · exact State.halts_of_step hentry.busy hy (again v hresume)
  · have hdepth : (g :: f' :: rest).length ≤ maxDepth :=
      hcall.frames_eq ▸ hcall.inv.frames_length_le (by simp [hcall.frames_eq])
    have hlt : maxDepth - (f' :: rest).length < maxDepth - rest.length := by
      simp only [List.length_cons] at hdepth ⊢
      omega
    exact State.halts_of_step hentry.busy hy (halts_of_hdCode_cons hcall again)
termination_by (maxDepth - rest.length, f.rem)
decreasing_by
  · exact Prod.Lex.right _ hrem
  · exact Prod.Lex.left _ _ hlt

theorem halts_of_hdCode (h : s.HdAt .hdCode fs) : s.Halts := by
  induction fs generalizing s with
  | nil =>
    obtain ⟨t, hx⟩ := stepNeverStops s h.inv
    refine State.halts_of_step h.busy hx (State.halts_of_not_busy ?_)
    rcases step_hdCode h.busy h.engine_eq hx with ⟨_, rfl⟩ | ⟨_, _, hs, _⟩
    · simp
    · rw [h.frames_eq] at hs
      cases hs
  | cons f rest ih => exact halts_of_hdCode_cons h fun _ => ih

theorem halts_of_hdEntry (h : s.HdAt .hdEntry fs) : s.Halts := by
  obtain ⟨t, hx, hend | hresume | ⟨g, hcall⟩⟩ := h.entry_turn <;> refine State.halts_of_step h.busy hx ?_
  · exact State.halts_of_not_busy hend
  · exact halts_of_hdCode hresume
  · exact halts_of_hdCode hcall

theorem State.Inv.halts (h : s.Inv) : s.Halts := by
  by_cases hb : s.status = .busy
  · cases he : s.engine with
    | lz => exact halts_of_lz hb he (h.ip_inside hb he)
    | hdCode => exact halts_of_hdCode ⟨h, hb, he, rfl⟩
    | hdEntry => exact halts_of_hdEntry ⟨h, hb, he, rfl⟩
  · exact State.halts_of_not_busy hb

end Frames

/-- Settles O51. -/
theorem commandsTerminate : Obligations.CommandsTerminate := by
  intro s h
  obtain ⟨u, hu⟩ := h.halts
  obtain ⟨k, hk⟩ := hu.reaches
  exact ⟨k, u, hk, hu.not_busy⟩

end Sys2Proof.Machine
end

section
/-! Proofs of the setup family (41_hd_setup.md): a u32 as the number read, the CDIC record's size test and reconciled code
length, and the tests of the two records in order. -/

namespace Sys2Proof.Machine

open Sys2Proof

/-! ### A u32 is the number of its four bytes (R41) -/

theorem beNat_lt (bs : Bytes) : beNat bs < 256 ^ bs.length := by
  induction bs using List.reverseRecOn with
  | nil => exact Nat.one_pos
  | append_singleton bs b ih =>
    rw [beNat_concat, List.length_append, List.length_singleton, pow_succ]
    have hb : b.toNat < 256 := b.isLt
    omega

theorem memRead_lt {m : Memory} {a n x : Nat} (h : memRead m a n = some x) : x < 256 ^ n := by
  have hle : a + n ≤ m.length := memRead_isSome.1 (Option.isSome_of_eq_some h)
  have hlen : ((m.drop a).take n).length = n := by rw [List.length_take, List.length_drop]; omega
  rw [memRead_of_le hle, Option.some_inj] at h
  calc x = beNat ((m.drop a).take n) := h.symm
    _ < 256 ^ ((m.drop a).take n).length := beNat_lt _
    _ = 256 ^ n := by rw [hlen]

theorem memRead32_eq_some {m : Memory} {a : Nat} {v : U32} : memRead32 m a = some v ↔ memRead m a 4 = some v.toNat := by
  rw [memRead32, Option.map_eq_some_iff]
  constructor
  · rintro ⟨x, hx, rfl⟩
    have hlt : x < 2 ^ 32 := memRead_lt hx
    rw [hx, BitVec.toNat_ofNat, Nat.mod_eq_of_lt hlt]
  · exact fun h => ⟨v.toNat, h, by rw [BitVec.ofNat_toNat, BitVec.setWidth_eq]⟩

/-- Entry `i` of a table as the number at `a + 4i` (R103). -/
theorem memRead_of_readTable {m : Memory} {a k : Nat} {t : Vector U32 k} (h : readTable m a k = some t) (i : Nat)
    (hi : i < k) : memRead m (a + 4 * i) 4 = some t[i].toNat := memRead32_eq_some.1 (readTable_getElem h i hi)

/-! ### A test of a field of a record -/

/-- Reading an existing field and testing its value is one test of the read. -/
theorem withRead_test {α : Type} [DecidableEq α] {r : Option α} (hr : ∃ x, r = some x) (v : α) (o : Out)
    (k : α → Out) : withRead r (fun x => if x ≠ v then o else k x) = if r ≠ some v then o else k v := by
  obtain ⟨x, rfl⟩ := hr
  rw [withRead_some]
  by_cases hx : x = v
  · rw [if_neg (not_not.2 hx), if_neg (not_not.2 (congrArg some hx)), hx]
  · rw [if_pos hx, if_pos fun h => hx (Option.some.inj h)]

/-- The magic is the record's first bytes (R46). -/
theorem withRead_magic {record : Bytes} {n : Nat} (h : n ≤ record.length) (magic : Bytes) (o : Out)
    (k : Bytes → Out) : withRead (readBytes record 0 n) (fun x => if x ≠ magic then o else k x) =
      if record.take n ≠ magic then o else k magic := by
  have hr : readBytes record 0 n = some (record.take n) := readBytes_of_le (by omega)
  rw [withRead_test ⟨_, hr⟩, hr]
  simp only [ne_eq, Option.some_inj]

/-! ### SET_HUFF (R101, R103)

Outside FAULT the command's rules run; BUSY shows in none of their outcomes (R161). -/

section Huff

variable {record : Bytes} {s : State}

theorem exec_setHuff_of_short (hs : s.status ≠ .fault) (h : record.length < 1304) :
    exec (.setHuff record) s = .next (s.raise .huffShort 0) := (if_neg hs).trans (if_pos h)

/-- A record that is long enough is read whole, so only its four header fields are left to test. -/
theorem exec_setHuff_of_le (hs : s.status ≠ .fault) (h : 1304 ≤ record.length) : ∃ cache base,
    readTable record 24 256 = some cache ∧ readTable record 1048 64 = some base ∧
    exec (.setHuff record) s =
      if record.take 4 ≠ [0x48, 0x55, 0x46, 0x46] then .next (s.raise .huffBadMagic 0)
      else if memRead record 4 4 ≠ some 24 then .next (s.raise .huffBadHdrLen 0)
      else if memRead record 8 4 ≠ some 24 then .next (s.raise .huffBadCacheOffset 0)
      else if memRead record 12 4 ≠ some 1048 then .next (s.raise .huffBadBaseOffset 0)
      else .next ((s.loadTables cache base).finish .ok) := by
  obtain ⟨cache, hcache⟩ := readTable_of_le (m := record) (a := 24) (k := 256) (by omega)
  obtain ⟨base, hbase⟩ := readTable_of_le (m := record) (a := 1048) (k := 64) (by omega)
  refine ⟨cache, base, hcache, hbase, (if_neg hs).trans ?_⟩
  unfold setHuffBody Config.huffMinLen Config.huffMagic Config.huffHdrLen Config.cacheBytes Config.baseBytes
  rw [if_neg (Nat.not_lt.2 h), withRead_magic (by omega), withRead_test (memRead_exists (by omega)),
    withRead_test (memRead_exists (by omega)), withRead_test (memRead_exists (by omega))]
  simp only [hcache, hbase, withRead_some, Nat.reduceAdd]
  rfl

end Huff

/-- Settles O36: every test passes, and each entry loaded is the word read at its address. -/
theorem setHuffLoadsTables : Obligations.SetHuffLoadsTables := by
  intro record s hs hlen hmagic hhdr hcacheOff hbaseOff
  obtain ⟨cache, base, hcache, hbase, hexec⟩ := exec_setHuff_of_le hs hlen
  refine ⟨cache, base, memRead_of_readTable hcache, memRead_of_readTable hbase, ?_⟩
  rw [hexec, if_neg (not_not.2 hmagic), if_neg (not_not.2 hhdr), if_neg (not_not.2 hcacheOff),
    if_neg (not_not.2 hbaseOff)]
  rfl

/-- Settles O37: the tests before the failing one pass, and its own outcome is the fault. -/
theorem setHuffFaults : Obligations.SetHuffFaults := by
  intro record s hs
  refine ⟨exec_setHuff_of_short hs, fun hlen => ?_⟩
  obtain ⟨cache, base, _, _, hexec⟩ := exec_setHuff_of_le hs hlen
  rw [hexec]
  refine ⟨fun h => if_pos h, fun hmagic => ?_⟩
  rw [if_neg (not_not.2 hmagic)]
  refine ⟨fun h => if_pos h, fun hhdr => ?_⟩
  rw [if_neg (not_not.2 hhdr)]
  refine ⟨fun h => if_pos h, fun hcacheOff hbaseOff => ?_⟩
  rw [if_neg (not_not.2 hcacheOff), if_pos hbaseOff]

/-! ### The size test and the reconciled code length (R106, R107) -/

/-- Capping the exponent at `size` keeps `2^cl` on its side of `size`: both powers are above it once the cap holds. -/
theorem lt_two_pow_min_iff (cl size : Nat) : size < 2 ^ min cl size ↔ size < 2 ^ cl := by
  rcases Nat.le_total cl size with h | h
  · rw [Nat.min_eq_left h]
  · have hsize : size < 2 ^ size := Nat.lt_two_pow_self
    rw [Nat.min_eq_right h]
    exact iff_of_true hsize (hsize.trans_le (Nat.pow_le_pow_right Nat.two_pos h))

theorem two_pow_min_lt_iff (cl size : Nat) : 2 ^ min cl size < size ↔ 2 ^ cl < size := by
  rcases Nat.le_total cl size with h | h
  · rw [Nat.min_eq_left h]
  · have hsize : size < 2 ^ size := Nat.lt_two_pow_self
    rw [Nat.min_eq_right h]
    exact iff_of_false hsize.not_gt (hsize.trans_le (Nat.pow_le_pow_right Nat.two_pos h)).not_gt

/-- Settles O38: the cap on the exponent changes neither comparison. -/
theorem cdicSizeTest : Obligations.CdicSizeTest := by
  intro p size cl
  unfold cdicSizeOk
  cases p.cdicSizeCheck with
  | doc => exact decide_eq_true_iff.trans (lt_two_pow_min_iff _ _)
  | inverse => exact decide_eq_true_iff.trans (two_pow_min_lt_iff _ _)
  | none => exact iff_of_true rfl trivial

theorem State.reconcile_toNat (s : State) (cl : U32) :
    (s.reconcile cl).toNat = if s.clValid then min s.codeLength.toNat cl.toNat else cl.toNat := by
  unfold State.reconcile
  split
  · split
    · rw [Nat.min_eq_left ‹_›]
    · rw [Nat.min_eq_right (Nat.le_of_not_le ‹_›)]
  · rfl

theorem State.reconcile_eq_of_toNat {s : State} {cl newCL : U32}
    (h : newCL.toNat = if s.clValid then min s.codeLength.toNat cl.toNat else cl.toNat) : s.reconcile cl = newCL :=
  BitVec.eq_of_toNat_eq ((s.reconcile_toNat cl).trans h.symm)

/-! ### ADD_CDIC (R105 to R109) -/

section Cdic

variable {record : Bytes} {s : State}

/-- The record is not looked at (R109). -/
theorem exec_addCdic_of_full (hs : s.status ≠ .fault) (hfull : 32 ≤ s.dictsCount) :
    exec (.addCdic record) s = .next (s.raise .cdicTooMany 0) := (if_neg hs).trans (if_pos hfull)

theorem exec_addCdic_of_short (hs : s.status ≠ .fault) (hroom : s.dictsCount < 32) (h : record.length < 16) :
    exec (.addCdic record) s = .next (s.raise .cdicShort 0) :=
  (if_neg hs).trans ((if_neg (Nat.not_le.2 hroom)).trans (if_pos h))

/-- With room for a blob and a whole header, the magic, the length field and the size are left to test. -/
theorem exec_addCdic_of_le (hs : s.status ≠ .fault) (hroom : s.dictsCount < 32) (h : 16 ≤ record.length) :
    ∃ cl : U32, memRead record 12 4 = some cl.toNat ∧
    exec (.addCdic record) s =
      if record.take 4 ≠ [0x43, 0x44, 0x49, 0x43] then .next (s.raise .cdicBadMagic 0)
      else if memRead record 4 4 ≠ some 16 then .next (s.raise .cdicBadHdrLen 0)
      else if cdicSizeOk s.params (record.length - 16) (s.reconcile cl) then
        .next ((s.addDict (record.drop 16) (s.reconcile cl)).finish .ok)
      else .next (s.raise .cdicBadSize 0) := by
  obtain ⟨cl, hcl⟩ := memRead32_of_le (m := record) (a := 12) h
  refine ⟨cl, memRead32_eq_some.1 hcl, (if_neg hs).trans ?_⟩
  unfold addCdicBody Config.dictMax Config.cdicMagic Config.cdicHdrLen Config.cdicCodeLenOff
  have hfew : ¬ 32 ≤ s.begin.dictsCount := Nat.not_le.2 hroom
  rw [if_neg hfew, if_neg (Nat.not_lt.2 h), withRead_magic (by omega), withRead_test (memRead_exists (by omega)), hcl,
    withRead_some]
  rfl

/-- A record with a good header comes down to the size test of its reconciled code length (R106, R107). -/
theorem exec_addCdic_of_header {cl newCL : U32} (hs : s.status ≠ .fault) (hroom : s.dictsCount < 32)
    (h : 16 ≤ record.length) (hmagic : record.take 4 = [0x43, 0x44, 0x49, 0x43]) (hhdr : memRead record 4 4 = some 16)
    (hcl : memRead record 12 4 = some cl.toNat)
    (hnew : newCL.toNat = if s.clValid then min s.codeLength.toNat cl.toNat else cl.toNat) :
    exec (.addCdic record) s =
      if cdicSizeOk s.params (record.length - 16) newCL then
        .next ((s.addDict (record.drop 16) newCL).finish .ok)
      else .next (s.raise .cdicBadSize 0) := by
  obtain ⟨cl', hcl', hexec⟩ := exec_addCdic_of_le hs hroom h
  have hsame : cl' = cl := BitVec.eq_of_toNat_eq (Option.some.inj (hcl'.symm.trans hcl))
  rw [hexec, if_neg (not_not.2 hmagic), if_neg (not_not.2 hhdr), hsame, State.reconcile_eq_of_toNat hnew]

end Cdic

/-- Settles O39: the header's tests pass, and so does the size test under the reconciled code length. -/
theorem addCdicAppendsBlob : Obligations.AddCdicAppendsBlob := by
  intro record s cl newCL hs hroom hlen hmagic hhdr hcl hnew hsize
  rw [exec_addCdic_of_header hs hroom hlen hmagic hhdr hcl hnew, if_pos hsize]
  rfl

/-- Settles O40: the tests before the failing one pass, and its own outcome is the fault. -/
theorem addCdicFaults : Obligations.AddCdicFaults := by
  intro record s hs
  refine ⟨exec_addCdic_of_full hs, fun hroom => ⟨exec_addCdic_of_short hs hroom, fun hlen => ?_⟩⟩
  obtain ⟨_, _, hexec⟩ := exec_addCdic_of_le hs hroom hlen
  refine ⟨fun hmagic => hexec.trans (if_pos hmagic), fun hmagic => ⟨fun hhdr => ?_, ?_⟩⟩
  · rw [hexec, if_neg (not_not.2 hmagic), if_pos hhdr]
  · intro cl newCL hhdr hcl hnew hsize
    rw [exec_addCdic_of_header hs hroom hlen hmagic hhdr hcl hnew, if_neg (Bool.eq_false_iff.1 hsize)]

end Sys2Proof.Machine
end

section
/-! Proofs of the HD decode family (42_hd_decode.md): the window bit by bit (R42, R121), the base-table scan (R125), the
two code forms and what follows a resolved code (R123 to R128), and the turns of the HD loop (R120, R122, R129). -/

namespace Sys2Proof.Machine

open Sys2Proof

/-! ### The window (R42, R121) -/

section Window

variable {m m' : Memory} {base n : Nat}

theorem streamBit_eq_of_le (h : base + n ≤ m.length) (p : Nat) : streamBit m base n p =
    some (if p < 8 * n then (m.getD (base + p / 8) 0).getLsbD (7 - p % 8) else false) := by
  unfold streamBit
  split
  · have hlt : base + p / 8 < m.length := by omega
    rw [memRead8_of_lt hlt, List.getD_eq_getElem _ _ hlt, Option.map_some]
  · rfl

theorem streamBit_congr (hm : (m'.drop base).take n = (m.drop base).take n) (p : Nat) :
    streamBit m' base n p = streamBit m base n p := by
  unfold streamBit
  split
  · have hbyte : m'[base + p / 8]? = m[base + p / 8]? := by
      have hlt : p / 8 < n := by omega
      have hget := congrArg (·[p / 8]?) hm
      simpa only [List.getElem?_take_of_lt hlt, List.getElem?_drop] using hget
    rw [memRead8_eq_getElem?, memRead8_eq_getElem?, hbyte]
  · rfl

theorem streamBits_congr (hm : (m'.drop base).take n = (m.drop base).take n) (p k : Nat) :
    streamBits m' base n p k = streamBits m base n p k := by
  induction k with
  | zero => rfl
  | succ k ih => simp only [streamBits, ih, streamBit_congr hm]

theorem peek32_congr (hm : (m'.drop base).take n = (m.drop base).take n) (bp : Nat) :
    peek32 m' base n bp = peek32 m base n bp := by
  rw [peek32, streamBits_congr hm, peek32]

/-- The first bit of the stream is the most significant one of the number. -/
theorem streamBit_of_streamBits {p k x : Nat} (h : streamBits m base n p k = some x) {i : Nat} (hi : i < k) :
    streamBit m base n (p + i) = some (x.testBit (k - 1 - i)) := by
  induction k generalizing x with
  | zero => exact absurd hi (Nat.not_lt_zero i)
  | succ k ih =>
    simp only [streamBits] at h
    split at h
    · rename_i y b hbits hbit
      cases h
      rw [← Nat.bit_val]
      rcases Nat.lt_succ_iff_lt_or_eq.1 hi with hlt | rfl
      · have hidx : k + 1 - 1 - i = k - 1 - i + 1 := by omega
        rw [ih hbits hlt, hidx, Nat.testBit_bit_succ]
      · rw [hbit, Nat.add_sub_cancel, Nat.sub_self, Nat.testBit_bit_zero]
    · cases h

theorem streamBit_of_peek32 {bp : Nat} {w : U32} (h : peek32 m base n bp = some w) {i : Nat} (hi : i < 32) :
    streamBit m base n (bp + i) = some (w.getLsbD (31 - i)) := by
  obtain ⟨x, hx, rfl⟩ := Option.map_eq_some_iff.1 h
  have hlt : 31 - i < 32 := by omega
  rw [streamBit_of_streamBits hx hi, BitVec.getLsbD_ofNat, decide_eq_true hlt, Bool.true_and]

end Window

/-- Settles O9. -/
theorem windowBits : Obligations.WindowBits := by
  intro m base n bp h
  obtain ⟨w, hw⟩ := peek32_of_le (bp := bp) h
  refine ⟨w, hw, fun i hi => ?_, fun m' hm => (peek32_congr hm bp).trans hw⟩
  exact Option.some.inj ((streamBit_of_peek32 hw hi).symm.trans (streamBit_eq_of_le h (bp + i)))

/-! ### The window's top bits and the codes made of them (R66, R122, R124, R126) -/

theorem topBits_toNat (w : U32) (L : Nat) : (topBits w L).toNat = w.toNat / 2 ^ (32 - L) := by
  rw [topBits, BitVec.toNat_ushiftRight, Nat.shiftRight_eq_div_pow, Config.windowBits]

theorem sub_topBits_toNat (x w : U32) (L : Nat) :
    (x - topBits w L).toNat = (x.toNat + 2 ^ 32 - w.toNat / 2 ^ (32 - L)) % 2 ^ 32 := by
  have hlt : (topBits w L).toNat < 2 ^ 32 := (topBits w L).isLt
  rw [BitVec.toNat_sub, ← topBits_toNat]
  congr 1
  omega

theorem cacheWordOf_shiftRight_toNat (t : Bool) (m : BitVec 24) (g : BitVec 2) (l : BitVec 5) :
    (cacheWordOf t m g l >>> 8).toNat = m.toNat := by
  have ht : t.toNat < 2 := t.toNat_lt
  rw [BitVec.toNat_ushiftRight, Nat.shiftRight_eq_div_pow, cacheWordOf_toNat]
  omega

theorem codeT_toNat_of_formula {p : Params} (hp : p.codeT = .formula) (m : BitVec 24) (g : BitVec 2) (l : BitVec 5)
    (w : U32) (L : Nat) :
    (codeT p (cacheWordOf true m g l) w L).toNat = (m.toNat + 2 ^ 32 - w.toNat / 2 ^ (32 - L)) % 2 ^ 32 := by
  simp only [codeT, hp]
  rw [sub_topBits_toNat, cacheWordOf_shiftRight_toNat]

theorem codeB_toNat_of_formula {p : Params} (hp : p.codeB = .formula) (x w : U32) (L : Nat) :
    (codeB p x w L).toNat = (x.toNat + 2 ^ 32 - w.toNat / 2 ^ (32 - L)) % 2 ^ 32 := by
  simp only [codeB, hp]
  exact sub_topBits_toNat x w L

theorem cacheIndex_val (w : U32) : (cacheIndex w).val = w.toNat / 2 ^ 24 := by
  have hlt : w.toNat < 2 ^ 32 := w.isLt
  rw [cacheIndex, BitVec.val_toFin, toNat_extractLsb'_eq_div_mod]
  omega

theorem cacheTable_getElem?_window (t : Vector U32 256) (w : U32) :
    t.toList[w.toNat / 2 ^ 24]? = some t[cacheIndex w] := by
  rw [← cacheIndex_val, Vector.getElem?_toList]
  exact Vector.getElem?_eq_getElem (cacheIndex w).isLt

/-! ### The base-table scan (R125) -/

section Scan

variable {t : Vector U32 64} {w : U32} {len L : Nat}

theorem scanBase_eq_some_iff : scanBase t w len = some L ↔
    len ≤ L ∧ L ≤ 32 ∧ (baseOf t L).toNat ≤ w.toNat / 2 ^ (32 - L) ∧
      ∀ j, len ≤ j → j < L → w.toNat / 2 ^ (32 - j) < (baseOf t j).toNat := by
  have hrange : L ∈ List.range' len (Config.windowBits + 1 - len) ↔ len ≤ L ∧ L ≤ 32 := by
    rw [List.mem_range'_1, Config.windowBits]
    omega
  simp only [scanBase, List.find?_range'_eq_some, hrange, topBits_toNat, decide_eq_true_eq, Bool.not_eq_true',
    decide_eq_false_iff_not, Nat.not_le]
  tauto

theorem scanBase_eq_none_iff : scanBase t w len = none ↔
    ∀ j, len ≤ j → j ≤ 32 → w.toNat / 2 ^ (32 - j) < (baseOf t j).toNat := by
  have hrange : ∀ j, j < len + (Config.windowBits + 1 - len) ∧ len ≤ j ↔ len ≤ j ∧ j ≤ 32 := fun j => by
    rw [Config.windowBits]
    omega
  simp only [scanBase, List.find?_eq_none, List.mem_range'_1, topBits_toNat, decide_eq_true_eq, Nat.not_le]
  refine forall_congr' fun j => ?_
  rw [and_comm, hrange, and_imp]

end Scan

/-! ### The two forms of code, and what follows a resolved code (R123 to R128) -/

section Codes

variable {s : State} {f : Frame} {rest : List Frame} {m : BitVec 24} {g : BitVec 2} {len : BitVec 5} {L : Nat}
  {code : U32}

theorem withCode_zero (hs : s.frames = f :: rest) (k : Frame → List Frame → Out) :
    withCode 0 s k = .next (s.raise .hdZeroCodeLen f.bp) := by
  simp only [withCode, hs, if_true]

theorem withCode_of_pos (hs : s.frames = f :: rest) (hlen : len.toNat ≠ 0) (k : Frame → List Frame → Out) :
    withCode len s k = k f rest := by
  have hne : len ≠ 0 := fun h => hlen (congrArg BitVec.toNat h)
  simp only [withCode, hs, if_neg hne]

theorem exec_hcodeT_of_pos (hs : s.frames = f :: rest) (hlen : len.toNat ≠ 0) :
    exec (.hcodeT m g len) s =
      consumeCode f rest len.toNat (codeT s.params (cacheWordOf true m g len) s.hd.w len.toNat) s :=
  withCode_of_pos hs hlen _

theorem exec_hcodeB_of_scan (hs : s.frames = f :: rest) (hlen : len.toNat ≠ 0)
    (hscan : scanBase s.baseTable s.hd.w len.toNat = some L) :
    exec (.hcodeB m g len) s = consumeCode f rest L (codeB s.params (maxOf s.baseTable L) s.hd.w L) s := by
  refine (withCode_of_pos hs hlen _).trans ?_
  simp only [hscan]

theorem exec_hcodeB_of_scan_none (hs : s.frames = f :: rest) (hlen : len.toNat ≠ 0)
    (hscan : scanBase s.baseTable s.hd.w len.toNat = none) :
    exec (.hcodeB m g len) s = .next (s.raise .hdBaseScanOverflow f.bp) := by
  refine (withCode_of_pos hs hlen _).trans ?_
  simp only [hscan]

theorem consumeCode_of_le (h : f.bp + L ≤ 8 * f.n) :
    consumeCode f rest L code s = .next ((s.latchCode L code f.bp).consume f rest L) :=
  if_neg (by rw [Frame.rem]; omega)

/-- A code has a length, so it does not fit when the frame has no bit left either. -/
theorem consumeCode_of_lt (hL : L ≠ 0) (h : 8 * f.n < f.bp + L) :
    consumeCode f rest L code s = straddle f (s.latchCode L code f.bp) :=
  if_pos (by rw [Frame.rem]; omega)

theorem straddle_of_zero (hw : s.hd.w = 0) : straddle f s = .next s.returnFrame := if_pos hw

theorem straddle_of_warn (hw : s.hd.w ≠ 0) (hp : s.params.straddlePolicy = .warn) :
    straddle f s = .next s.setWarn.returnFrame := by
  simp only [straddle, if_neg hw, hp]

theorem straddle_of_fault (hw : s.hd.w ≠ 0) (hp : s.params.straddlePolicy = .fault) :
    straddle f s = .next (s.raise .hdStraddle f.bp) := by
  simp only [straddle, if_neg hw, hp]

end Codes

/-- Settles O22. -/
theorem baseScanIsLeast : Obligations.BaseScanIsLeast :=
  ⟨fun _ _ _ _ _ _ => scanBase_eq_some_iff,
    fun _ _ _ _ _ _ hs hlen hfail => exec_hcodeB_of_scan_none hs hlen (scanBase_eq_none_iff.2 hfail)⟩

/-- Settles O20. -/
theorem hcodeTResult : Obligations.HcodeTResult := by
  intro m g len s f rest hs hlen hfit
  refine ⟨codeT s.params (cacheWordOf true m g len) s.hd.w len.toNat, fun hp => codeT_toNat_of_formula hp .., ?_⟩
  rw [exec_hcodeT_of_pos hs hlen, consumeCode_of_le hfit]
  rfl

/-- Settles O21. -/
theorem hcodeBResult : Obligations.HcodeBResult := by
  intro m g len L s f rest hs hlen hle h32 hpass hleast hfit
  refine ⟨codeB s.params (maxOf s.baseTable L) s.hd.w L, fun hp => codeB_toNat_of_formula hp .., ?_⟩
  rw [exec_hcodeB_of_scan hs hlen (scanBase_eq_some_iff.2 ⟨hle, h32, hpass, hleast⟩), consumeCode_of_le hfit]
  rfl

/-- Settles O23. -/
theorem zeroCodeLengthFaults : Obligations.ZeroCodeLengthFaults := fun _ _ _ _ _ hs =>
  ⟨withCode_zero hs _, withCode_zero hs _⟩

/-- Settles O24: both forms come down to `straddle` in the state with the code's latches. -/
theorem straddlingCodeEndsFrame : Obligations.StraddlingCodeEndsFrame := by
  intro i L s f rest hs hlong ⟨m, g, len, hlen, hform⟩
  have hstraddle : ∃ code, exec i s = straddle f (s.latchCode L code f.bp) := by
    rcases hform with ⟨rfl, rfl⟩ | ⟨rfl, hscan⟩
    · exact ⟨_, (exec_hcodeT_of_pos hs hlen).trans (consumeCode_of_lt hlen hlong)⟩
    · have hL : L ≠ 0 := Nat.ne_of_gt ((Nat.pos_of_ne_zero hlen).trans_le (scanBase_range hscan).1)
      exact ⟨_, (exec_hcodeB_of_scan hs hlen hscan).trans (consumeCode_of_lt hL hlong)⟩
  obtain ⟨code, hexec⟩ := hstraddle
  rw [hexec]
  exact ⟨s.latchCode L code f.bp, ⟨code, rfl⟩, straddle_of_zero (s := s.latchCode L code f.bp),
    straddle_of_warn (s := s.latchCode L code f.bp), straddle_of_fault (s := s.latchCode L code f.bp)⟩

/-! ### The turns of the HD loop (R120, R122, R129) -/

section Loop

variable {s : State} {f : Frame} {rest : List Frame} {m : Memory} {w : U32}

theorem fetch_hdCode (hb : s.status = .busy) (he : s.engine = .hdCode) : fetch s = fetchHdCode s := by
  simp only [fetch, hb, he]

theorem fetch_hdCode_cons (hb : s.status = .busy) (he : s.engine = .hdCode) (hs : s.frames = f :: rest) :
    fetch s = fetchCode f s := by
  rw [fetch_hdCode hb he]
  simp only [fetchHdCode, hs]

theorem fetchCode_of_exhausted (h : 8 * f.n ≤ f.bp) : fetchCode f s = .stop (.next s.returnFrame) :=
  if_pos (Nat.sub_eq_zero_of_le h)

theorem fetchCode_of_padding (hm : s.space f.space = some m) (hw : peek32 m f.base f.n f.bp = some 0)
    (h8 : 8 * f.n < f.bp + 8) : fetchCode f s = .stop (.next s.returnFrame) := by
  by_cases h0 : 8 * f.n ≤ f.bp
  · exact fetchCode_of_exhausted h0
  · have hlast : f.rem < 8 := by rw [Frame.rem]; omega
    rw [fetchCode, if_neg (by rw [Frame.rem]; omega), hm]
    simp only [fetchRead, hw, hlast, and_self, if_true]

/-- Bits are left, and they are not the padding of the last byte (R129). -/
theorem fetchCode_of_code (hm : s.space f.space = some m) (hw : peek32 m f.base f.n f.bp = some w)
    (h0 : f.bp < 8 * f.n) (h : f.bp + 8 ≤ 8 * f.n ∨ w ≠ 0) :
    fetchCode f s = .run (decodeCacheWord s.cacheTable[cacheIndex w])
      (s.latchWindow w s.cacheTable[cacheIndex w] f.bp) := by
  have hpad : ¬ (f.rem < 8 ∧ w = 0) := by
    rintro ⟨h8, hz⟩
    rw [Frame.rem] at h8
    rcases h with h | h
    · omega
    · exact h hz
  rw [fetchCode, if_neg (by rw [Frame.rem]; omega), hm]
  simp only [fetchRead, hw, if_neg hpad]

theorem returnFrame_eq (hs : s.frames = f :: rest) : s.returnFrame = { s with
    frames := rest, guard := if f.key0 = none then s.guard else s.guard.tail, engine := .hdCode } := by
  rw [State.returnFrame_cons hs]
  cases f.key0 <;> rfl

theorem returnFrame_frames (hs : s.frames = f :: rest) : s.returnFrame.frames = rest := by
  rw [State.returnFrame_cons hs]

end Loop

/-- Settles O25. -/
theorem codeStepRunsDecoded : Obligations.CodeStepRunsDecoded := by
  intro s f rest m w hb he hs hm hw h0 h
  have hf := (fetch_hdCode_cons hb he hs).trans (fetchCode_of_code hm hw h0 h)
  exact ⟨_, cacheTable_getElem?_window s.cacheTable w, step_of_fetch hf⟩

/-- Settles O26. -/
theorem frameEndsCleanly : Obligations.FrameEndsCleanly := by
  intro s f rest hb he hs h
  have hend : fetchCode f s = .stop (.next s.returnFrame) := by
    rcases h with h0 | ⟨h8, m, hm, hw⟩
    · exact fetchCode_of_exhausted h0
    · exact fetchCode_of_padding hm hw h8
  rw [step, fetch_hdCode_cons hb he hs, hend, returnFrame_eq hs]

/-- Settles O27. -/
theorem hdCommandEnds : Obligations.HdCommandEnds := by
  intro s hb he hs
  have hf : fetch s = .stop (.next (s.finish (.okWarn s.warnLeftover))) := by
    rw [fetch_hdCode hb he, fetchHdCode, hs]
  rw [step, hf]
  rfl

/-- Settles O42: the fault entry writes its status over the BUSY of the command entry (R161, R190). -/
theorem decompHuffEntry : Obligations.DecompHuffEntry := fun _ _ hs =>
  ⟨fun hv => (if_neg hs).trans (if_pos hv), fun hv => (if_neg hs).trans (if_neg (Bool.eq_false_iff.1 hv))⟩

/-! ### The frames across a step (R127, R146, R147) -/

section Callers

variable {s t : State} {f : Frame} {rest : List Frame}

/-- A code of the innermost frame faults, or is resolved with a length and consumed (R123, R125, R127). -/
theorem exec_decodeCacheWord_consumes {v : U32} (hs : s.frames = f :: rest)
    (h : exec (decodeCacheWord v) s = .next t) :
    t.status = .fault ∨ ∃ L code, 1 ≤ L ∧ consumeCode f rest L code s = .next t := by
  have hpos : ∀ {len : BitVec 5}, len ≠ 0 → 1 ≤ len.toNat := fun h =>
    Nat.pos_of_ne_zero fun h0 => h (BitVec.eq_of_toNat_eq h0)
  rcases decodeCacheWord_cases v with ⟨_, hi⟩ | ⟨_, hi⟩ <;> rw [hi] at h
  · obtain ⟨f', rest', hs', ⟨_, rfl⟩ | ⟨hlen, hc⟩⟩ := withCode_eq_next h
    · exact .inl rfl
    · cases hs.symm.trans hs'
      exact .inr ⟨_, _, hpos hlen, hc⟩
  · obtain ⟨f', rest', hs', ⟨_, rfl⟩ | ⟨_, _, rfl⟩ | ⟨hlen, L, hscan, hc⟩⟩ :=
      execHcodeB_eq_next (u := cacheMaxcode v) (g := cacheIgnored v) h
    · exact .inl rfl
    · exact .inl rfl
    · cases hs.symm.trans hs'
      exact .inr ⟨L, _, (hpos hlen).trans (scanBase_range hscan).1, hc⟩

theorem consumeCode_frames {L : Nat} {code : U32} (hs : s.frames = f :: rest) (hL : 1 ≤ L)
    (h : consumeCode f rest L code s = .next t) :
    t.status = .fault ∨ t.frames = rest ∨
      (f.bp + L ≤ 8 * f.n ∧ t.frames = { f with bp := f.bp + L } :: rest) := by
  rcases consumeCode_eq_next h with ⟨hle, rfl⟩ | ⟨_, _, rfl⟩ | ⟨_, _, _, rfl⟩ | ⟨_, _, _, rfl⟩
  · exact .inr (.inr ⟨by rw [Frame.rem] at hle; omega, rfl⟩)
  · exact .inr (.inl (returnFrame_frames (s := s.latchCode L code f.bp) hs))
  · exact .inr (.inl (returnFrame_frames (s := (s.latchCode L code f.bp).setWarn) hs))
  · exact .inl rfl

theorem exec_decodeEntryHeader_frames {x : U16} (h : exec (decodeEntryHeader x) s = .next t) :
    t.status = .fault ∨ t.frames = s.frames ∨ ∃ g : Frame, g.bp = 0 ∧ g.key0 ≠ none ∧ t.frames = g :: s.frames := by
  rcases decodeEntryHeader_cases x with ⟨_, hi⟩ | ⟨_, hi⟩ <;> rw [hi] at h
  · rcases execEntLit_eq_next h with ⟨_, rfl⟩ | ⟨_, _, body, _, rfl⟩ | ⟨_, _, rfl⟩
    · exact .inl rfl
    · exact .inr (.inl rfl)
    · exact .inl rfl
  · rcases execEntRec_eq_next h with ⟨_, rfl⟩ | ⟨_, _, rfl⟩ | ⟨_, _, rfl⟩
    · exact .inl rfl
    · exact .inr (.inr ⟨_, rfl, Option.some_ne_none _, rfl⟩)
    · exact .inl rfl

theorem step_hdCode_frames (hb : s.status = .busy) (he : s.engine = .hdCode) (hs : s.frames = f :: rest)
    (h : step s = .next t) :
    t.status = .fault ∨ t.frames = rest ∨
      ∃ L, 1 ≤ L ∧ f.bp + L ≤ 8 * f.n ∧ t.frames = { f with bp := f.bp + L } :: rest := by
  rcases step_hdCode hb he h with ⟨hnil, _⟩ | ⟨_, _, hs', rfl | ⟨m, w, _, _, _, _, hx⟩⟩
  · rw [hs] at hnil
    cases hnil
  · exact .inr (.inl (returnFrame_frames hs))
  · cases hs.symm.trans hs'
    have hu : (s.latchWindow w s.cacheTable[cacheIndex w] f.bp).frames = f :: rest := hs
    rcases exec_decodeCacheWord_consumes hu hx with hfault | ⟨L, code, hL, hc⟩
    · exact .inl hfault
    · rcases consumeCode_frames hu hL hc with hfault | hret | ⟨hle, hfr⟩
      · exact .inl hfault
      · exact .inr (.inl hret)
      · exact .inr (.inr ⟨L, hL, hle, hfr⟩)

theorem step_hdEntry_frames (hb : s.status = .busy) (he : s.engine = .hdEntry) (h : step s = .next t) :
    t.status = .fault ∨ t.frames = s.frames ∨ ∃ g : Frame, g.bp = 0 ∧ g.key0 ≠ none ∧ t.frames = g :: s.frames := by
  rcases step_hdEntry hb he h with ⟨_, _, _, _, rfl⟩ | ⟨_, _, u, _, hu, _, _, _, _, _, _, _, _, _, _, hx⟩
  · exact .inl rfl
  · have hfr : u.frames = s.frames := by rw [hu]
    rw [← hfr]
    exact exec_decodeEntryHeader_frames hx

end Callers

/-- Settles O33: before a code the innermost frame loses bits or returns, before an entry one may be opened above it. -/
theorem callerFramesUntouched : Obligations.CallerFramesUntouched := by
  intro s t f rest ⟨hb, hlz⟩ hs hx ht
  have hok : t.status ≠ .fault := fun h => nomatch ht.symm.trans h
  cases he : s.engine with
  | lz => exact absurd he hlz
  | hdCode =>
    rcases step_hdCode_frames hb he hs hx with hfault | hret | hadv
    · exact absurd hfault hok
    · exact .inl hret
    · exact .inr (.inr (.inl hadv))
  | hdEntry =>
    rw [← hs]
    rcases step_hdEntry_frames hb he hx with hfault | hsame | hcall
    · exact absurd hfault hok
    · exact .inr (.inl hsame)
    · exact .inr (.inr (.inr hcall))

end Sys2Proof.Machine
end

section
/-! Proofs of the HD dictionary family (43_hd_dictionary.md): the tests of the lookup in order (R140 to R144), and the
two kinds of entry that it runs (R145, R146). -/

namespace Sys2Proof.Machine

open Sys2Proof

/-! ### The tests of the lookup (R142 to R144)

What the fetch answers when one test fails; the lemmas for the tests that pass stand with the encodings. -/

section Lookup

variable {s : State} {D : Memory}

theorem fetch_hdEntry (hb : s.status = .busy) (he : s.engine = .hdEntry) : fetch s = fetchHdEntry s := by
  simp only [fetch, hb, he]

theorem fetchHdEntry_of_not_held (h : s.clValid = false ∨ s.dictsCount ≤ splitDict s.codeLength s.hd.code) :
    ∃ u, s.SameButHd u ∧ fetchHdEntry s = .stop (.next (u.raise .hdBadDict s.hd.start)) := by
  refine (fetchHdEntry_split s).resolve_right ?_
  rintro ⟨D, hv, hD, _⟩
  rcases h with hfalse | hge
  · exact Bool.false_ne_true (hfalse.symm.trans hv)
  · obtain ⟨hlt, _⟩ := List.getElem?_eq_some_iff.1 hD
    exact absurd hlt (Nat.not_lt.2 hge)

theorem fetchOffset_of_slot_outside (h : D.length < 2 * s.hd.key + 2) :
    fetchOffset D s = .stop (.next (s.raise .hdBadOffset s.hd.start)) := if_pos h

theorem fetchHeader_of_header_outside (h : D.length < s.hd.off.toNat + 2) :
    fetchHeader D s = .stop (.next (s.raise .hdBadOffset s.hd.start)) := if_pos h

theorem fetchHeader_of_body_outside {x : U16} (hx : memRead16 D s.hd.off.toNat = some x)
    (h : D.length < s.hd.off.toNat + 2 + (entryLen x).toNat) :
    fetchHeader D s = .stop (.next ((s.latchSymLen x).raise .hdBadSymLen s.hd.start)) := by
  rw [fetchHeader, if_neg (Nat.not_lt.2 (le_length_of_memRead16 hx)), hx]
  exact if_pos h

/-- The lookup in a blob that is held, up to the header of an entry whose offset is in the blob's table. -/
theorem fetchHdEntry_of_offset {off : U16} (hv : s.clValid = true)
    (hD : s.dicts[splitDict s.codeLength s.hd.code]? = some D)
    (hoff : memRead16 D (2 * splitKey s.codeLength s.hd.code) = some off) :
    fetchHdEntry s = fetchHeader D
      ((s.latchSplit (splitDict s.codeLength s.hd.code) (splitKey s.codeLength s.hd.code)).latchOff off) :=
  (fetchHdEntry_of_held hv hD).trans (fetchOffset_of_memRead16 hoff)

/-- A fault of the lookup is the whole step, and only the HD latches change before it (R148, R190). -/
theorem step_of_lookup_fault {u : State} {f : FaultName} (hb : s.status = .busy) (he : s.engine = .hdEntry)
    (h : fetchHdEntry s = .stop (.next (u.raise f s.hd.start))) (hu : s.SameButHd u) :
    ∃ hd, step s = .next ({ s with hd := hd }.raise f s.hd.start) := by
  have hu : u = { s with hd := u.hd } := hu
  exact ⟨u.hd, by rw [step, fetch_hdEntry hb he, h, ← hu]⟩

end Lookup

/-- Settles O29: each test in the state with the latches of the tests before it. -/
theorem lookupFaults : Obligations.LookupFaults := by
  intro s hb he
  refine ⟨fun h => ?_, fun D hv hD => ⟨fun hslot => ?_, fun off hoff => ⟨fun hhdr => ?_, fun x hx hbody => ?_⟩⟩⟩
  · obtain ⟨u, hu, hf⟩ := fetchHdEntry_of_not_held h
    exact step_of_lookup_fault hb he hf hu
  · exact step_of_lookup_fault hb he ((fetchHdEntry_of_held hv hD).trans (fetchOffset_of_slot_outside hslot)) rfl
  · exact step_of_lookup_fault hb he
      ((fetchHdEntry_of_offset hv hD hoff).trans (fetchHeader_of_header_outside hhdr)) rfl
  · rw [← entryLen_toNat] at hbody
    exact step_of_lookup_fault hb he
      ((fetchHdEntry_of_offset hv hD hoff).trans (fetchHeader_of_body_outside hx hbody)) rfl

/-- Settles O30. -/
theorem entryStepRunsDecoded : Obligations.EntryStepRunsDecoded := by
  intro s D off h hb he hv hD hoff hh hbody
  rw [← entryLen_toNat] at hbody ⊢
  have hf : fetch s = .run (decodeEntryHeader h) (((s.latchSplit (splitDict s.codeLength s.hd.code)
      (splitKey s.codeLength s.hd.code)).latchOff off).latchSymLen h) :=
    calc fetch s
      _ = fetchHdEntry s := fetch_hdEntry hb he
      _ = fetchHeader D _ := fetchHdEntry_of_offset hv hD hoff
      _ = _ := fetchHeader_of_memRead16 hh hbody
  exact ⟨entryLen h, rfl, step_of_fetch hf⟩

/-! ### The two kinds of entry (R145, R146) -/

section Entries

variable {s : State} {len : BitVec 15}

theorem exec_entLit_of_too_long (h : 127 < len.toNat) :
    exec (.entLit len) s = .next (s.raise .hdSymLenTooBig s.hd.start) := if_pos h

theorem exec_entLit_of_not_capacityFor (h : len.toNat ≤ 127) (hc : ¬ s.capacityFor len.toNat) :
    exec (.entLit len) s = .next (s.raise .outOverflow s.hd.start) :=
  (if_neg (Nat.not_lt.2 h)).trans (if_neg fun hf => hc (State.fits_iff_capacityFor.1 hf))

theorem exec_entLit_of_capacityFor (h : len.toNat ≤ 127) (hc : s.capacityFor len.toNat) :
    exec (.entLit len) s = withRead (s.entryBody len.toNat) fun body => .next (s.appendOut body).resume :=
  (if_neg (Nat.not_lt.2 h)).trans (if_pos (State.fits_iff_capacityFor.2 hc))

theorem entryBody_of_le {D : Memory} {k : Nat} (hD : s.dicts[s.hd.dict]? = some D)
    (hk : s.hd.off.toNat + 2 + k ≤ D.length) :
    s.entryBody k = some ((D.drop (s.hd.off.toNat + 2)).take k) := by
  rw [State.entryBody, hD]
  exact readBytes_of_le hk

/-- The guard key is the code, or its key part, as `GUARD_KEY` says (R146). -/
theorem guardKeyOf_eq {g : U32} (hfull : s.params.guardKey = .full → g = s.hd.code)
    (hmasked : s.params.guardKey = .masked → g.toNat = s.hd.key) : s.guardKeyOf = g := by
  unfold State.guardKeyOf
  cases hp : s.params.guardKey with
  | full => exact (hfull hp).symm
  | masked => rw [← hmasked hp, BitVec.ofNat_toNat, BitVec.setWidth_eq]

theorem exec_entRec_of_mem (h : s.guardKeyOf ∈ s.guard) :
    exec (.entRec len) s = .next (s.raise .hdInfiniteRecursion s.hd.start) := if_pos h

theorem exec_entRec_of_full (h : s.guardKeyOf ∉ s.guard) (hroom : ¬ s.guardHasRoom = true) :
    exec (.entRec len) s = .next (s.raise .guardOverflow s.hd.start) := (if_neg h).trans (if_neg hroom)

theorem exec_entRec_of_room (h : s.guardKeyOf ∉ s.guard) (hroom : s.guardHasRoom = true) :
    exec (.entRec len) s = .next (s.pushFrame s.guardKeyOf s.hd.dict (s.hd.off.toNat + 2) len.toNat) :=
  (if_neg h).trans (if_pos hroom)

end Entries

/-- Settles O31. -/
theorem entLitResult : Obligations.EntLitResult := by
  intro len s
  refine ⟨exec_entLit_of_too_long, exec_entLit_of_not_capacityFor, fun D hlen hc hD hk => ?_⟩
  rw [exec_entLit_of_capacityFor hlen hc, entryBody_of_le hD hk]
  rfl

/-- Settles O32. -/
theorem entRecResult : Obligations.EntRecResult := by
  intro len g s hfull hmasked
  rw [← guardKeyOf_eq hfull hmasked]
  refine ⟨exec_entRec_of_mem, fun cap hg hcap hle => ?_, fun hg hcap => ?_⟩
  · have hfullGuard : ¬ s.guardHasRoom = true := fun hroom =>
      absurd (State.guardHasRoom_iff.1 hroom cap hcap) (Nat.not_lt.2 hle)
    exact exec_entRec_of_full hg hfullGuard
  · exact exec_entRec_of_room hg (State.guardHasRoom_iff.2 hcap)

end Sys2Proof.Machine
end

section
/-! Proofs of the host command family (44_host_commands.md): RESET in every state, and what FAULT refuses. -/

namespace Sys2Proof.Machine

open Sys2Proof

/-- RESET does not look at the status: it answers the state of R24 with the parameters and the queue kept (R163, R211). -/
theorem exec_reset (s : State) :
    exec .reset s = .next { State.reset with params := s.params, host := s.host, result := some .ok } := rfl

/-- Settles O34: each register has its value in the one state that RESET answers. -/
theorem resetResult : Obligations.ResetResult := by
  intro s
  refine ⟨_, exec_reset s, ?_⟩
  and_intros <;> rfl

/-- In FAULT the command's own rules are not reached, whatever they are (R161). -/
theorem enterCommand_of_fault {s : State} (hs : s.status = .fault) (k : State → Out) :
    enterCommand s k = .next s.refuse := if_pos hs

/-- Settles O35: the four commands pass the same entry, each with rules of its own. -/
theorem refusedInFault : Obligations.RefusedInFault := by
  intro s r i hs hi
  simp only [List.mem_cons, List.not_mem_nil, or_false] at hi
  obtain rfl | rfl | rfl | rfl := hi
  · exact enterCommand_of_fault hs (setHuffBody r)
  · exact enterCommand_of_fault hs (addCdicBody r)
  · exact enterCommand_of_fault hs fun t => .next (t.startLz r)
  · exact enterCommand_of_fault hs (decompHuffBody r)

end Sys2Proof.Machine
end

section
/-! Proofs of the fault family (60_exceptions.md): the table of fault codes (R181), and what a step that enters FAULT
has written before (R190), first for the instructions, then for the step. -/

namespace Sys2Proof.Machine

open Sys2Proof

/-- Settles O44: fault entry is one write of these registers. -/
theorem faultEntry : Obligations.FaultEntry := fun _ _ _ => rfl

/-! ### The fault codes (R181) -/

/-- The faults in the order of the table of R181. -/
def FaultName.table : List FaultName :=
  [.none, .lzBadDistance, .lzTruncated, .huffShort, .huffBadMagic, .huffBadHdrLen, .huffBadCacheOffset,
    .huffBadBaseOffset, .cdicTooMany, .cdicShort, .cdicBadMagic, .cdicBadHdrLen, .cdicBadSize, .hdNotConfigured,
    .hdZeroCodeLen, .hdBaseScanOverflow, .hdBadDict, .hdBadOffset, .hdBadSymLen, .hdSymLenTooBig,
    .hdInfiniteRecursion, .hdStraddle, .outOverflow, .guardOverflow]

theorem FaultName.mem_table (f : FaultName) : f ∈ table := by
  cases f <;> decide

theorem FaultName.code_injective {f g : FaultName} (h : f.code = g.code) : f = g :=
  List.inj_on_of_nodup_map (l := table) (by decide) f.mem_table g.mem_table h

/-- The faults that a unit with these parameters can raise: three of them stand for a parameter that is not at its
default. -/
def FaultName.AllowedBy (p : Params) : FaultName → Prop
  | .none => False
  | .hdStraddle => p.straddlePolicy = .fault
  | .outOverflow => p.outMax ≠ Option.none
  | .guardOverflow => p.guardCap ≠ Option.none
  | _ => True

theorem FaultName.AllowedBy.ne_none {p : Params} {f : FaultName} (h : f.AllowedBy p) : f ≠ .none := by
  rintro rfl
  exact h

theorem FaultName.not_mem_of_allowedBy_default {f : FaultName} (h : f.AllowedBy {}) :
    f ∉ [FaultName.hdStraddle, .outOverflow, .guardOverflow] := by
  simp only [List.mem_cons, List.not_mem_nil, or_false]
  rintro (rfl | rfl | rfl)
  · cases h
  · exact h rfl
  · exact h rfl

/-! ### Precise faults (R190)

Each instruction that ends in a next state either has not touched the fault code or has raised a fault before it wrote
more than the latches. -/

section Precise

variable {s t u : State}

/-- What may be written before a fault is raised: the queue, the latches, and the warning flag only at command entry
(R120, R190). -/
structure State.ReadyToFault (s u : State) : Prop where
  only : u = { s with host := u.host, warnLeftover := u.warnLeftover, lz := u.lz, hd := u.hd }
  warn : s.status = .busy → u.warnLeftover = s.warnLeftover

/-- FAULT was not entered, and the fault code was not written. -/
structure State.NoFaultEntry (s t : State) : Prop where
  status : t.status = .fault → s.status = .fault
  faultCode : t.faultCode = s.faultCode

/-- FAULT was entered by a fault that the parameters allow, from a state that was ready for it. -/
def State.RaisesPrecisely (s t : State) : Prop :=
  ∃ u f pos, s.ReadyToFault u ∧ f.AllowedBy s.params ∧ t = u.raise f pos

/-- If FAULT was entered, then precisely. -/
def State.FaultsPrecisely (s t : State) : Prop := s.NoFaultEntry t ∨ s.RaisesPrecisely t

theorem State.NoFaultEntry.trans (h : s.NoFaultEntry t) (h' : t.NoFaultEntry u) : s.NoFaultEntry u :=
  ⟨h.status ∘ h'.status, h'.faultCode.trans h.faultCode⟩

theorem State.ReadyToFault.trans (h : s.ReadyToFault t) (h' : t.ReadyToFault u) : s.ReadyToFault u where
  only := by rw [h'.only, h.only]
  warn hb := by
    have ht : t.status = .busy := by rw [h.only]; exact hb
    exact (h'.warn ht).trans (h.warn hb)

theorem State.readyToFault_hd (s : State) (hd : HdLatches) : s.ReadyToFault { s with hd := hd } :=
  ⟨rfl, fun _ => rfl⟩

/-- What comes after a write that leaves the unit ready to fault is precise for the whole. -/
theorem State.ReadyToFault.then (h : s.ReadyToFault u) (h' : u.FaultsPrecisely t) : s.FaultsPrecisely t := by
  obtain hno | ⟨v, f, pos, hv, hf, rfl⟩ := h'
  · have hu : s.NoFaultEntry u := by rw [h.only]; exact ⟨id, rfl⟩
    exact .inl (hu.trans hno)
  · have hp : u.params = s.params := by rw [h.only]
    exact .inr ⟨v, f, pos, h.trans hv, hp ▸ hf, rfl⟩

theorem State.faultsPrecisely_raise {f : FaultName} {pos : Nat} (hf : f.AllowedBy s.params) :
    s.FaultsPrecisely (s.raise f pos) :=
  .inr ⟨s, f, pos, ⟨rfl, fun _ => rfl⟩, hf, rfl⟩

/-- A test that raises a fault where it fails, and otherwise goes on. -/
theorem faultsPrecisely_of_test {c : Prop} [Decidable c] {f : FaultName} {pos : Nat} {o : Out}
    (h : (if c then .next (s.raise f pos) else o) = .next t) (hf : f.AllowedBy s.params)
    (ho : o = .next t → s.FaultsPrecisely t) : s.FaultsPrecisely t := by
  split at h
  · cases h
    exact State.faultsPrecisely_raise hf
  · exact ho h

theorem State.outOverflow_allowedBy {k : Nat} (h : s.fits k = false) : FaultName.outOverflow.AllowedBy s.params :=
  fun hcap => Bool.false_ne_true (h.symm.trans (State.fits_of_outMax_none hcap k))

theorem State.guardOverflow_allowedBy (h : s.guardHasRoom = false) : FaultName.guardOverflow.AllowedBy s.params := by
  intro hcap
  have hroom : s.guardHasRoom = true := State.guardHasRoom_iff.2 fun m hm => by simp [hcap] at hm
  exact Bool.false_ne_true (h.symm.trans hroom)

/-! The LZ instructions (R82 to R85). -/

theorem emitLz_faultsPrecisely {bs : Bytes} {size : Nat} (h : emitLz bs size s = .next t) : s.FaultsPrecisely t := by
  rcases emitLz_eq_next h with ⟨_, rfl⟩ | ⟨hfull, rfl⟩
  · exact .inl ⟨id, rfl⟩
  · exact State.faultsPrecisely_raise (State.outOverflow_allowedBy hfull)

theorem copyBref_faultsPrecisely (h : copyBref s = .next t) : s.FaultsPrecisely t := by
  rcases copyBref_eq_next h with ⟨_, rfl⟩ | ⟨_, _, _, out, _, rfl⟩ | ⟨_, _, hfull, rfl⟩
  · exact State.faultsPrecisely_raise trivial
  · exact .inl ⟨id, rfl⟩
  · exact State.faultsPrecisely_raise (State.outOverflow_allowedBy hfull)

theorem exec_lz_faultsPrecisely {i : Instr} {bs : Bytes} (hi : encode i = some (.lz, bs)) (h : exec i s = .next t) :
    s.FaultsPrecisely t := by
  cases i with
  | lit c => exact emitLz_faultsPrecisely h
  | run data => exact faultsPrecisely_of_test h trivial emitLz_faultsPrecisely
  | bref dist lenField =>
    have hl : s.ReadyToFault (s.latchBref (brefWordOf dist lenField)) := ⟨rfl, fun _ => rfl⟩
    exact faultsPrecisely_of_test h trivial fun h => hl.then (copyBref_faultsPrecisely h)
  | spc low => exact emitLz_faultsPrecisely h
  | _ => simp [encode] at hi

/-! The HD instructions (R123 to R128, R145, R146). -/

theorem State.noFaultEntry_returnFrame (s : State) : s.NoFaultEntry s.returnFrame := by
  unfold State.returnFrame
  split <;> exact ⟨id, rfl⟩

theorem consumeCode_faultsPrecisely {f : Frame} {rest : List Frame} {L : Nat} {code : U32}
    (h : consumeCode f rest L code s = .next t) : s.FaultsPrecisely t := by
  have hl : s.ReadyToFault (s.latchCode L code f.bp) := s.readyToFault_hd _
  rcases consumeCode_eq_next h with ⟨_, rfl⟩ | ⟨_, _, rfl⟩ | ⟨_, _, _, rfl⟩ | ⟨_, _, hp, rfl⟩
  · exact .inl ⟨id, rfl⟩
  · exact hl.then (.inl (State.noFaultEntry_returnFrame _))
  · have hw : s.NoFaultEntry (s.latchCode L code f.bp).setWarn := ⟨id, rfl⟩
    exact .inl (hw.trans (State.noFaultEntry_returnFrame _))
  · exact hl.then (State.faultsPrecisely_raise hp)

theorem exec_decodeCacheWord_faultsPrecisely {v : U32} (h : exec (decodeCacheWord v) s = .next t) :
    s.FaultsPrecisely t := by
  rcases decodeCacheWord_cases v with ⟨_, e⟩ | ⟨_, e⟩ <;> rw [e] at h
  · obtain ⟨f, rest, _, ⟨_, rfl⟩ | ⟨_, h⟩⟩ := withCode_eq_next h
    · exact State.faultsPrecisely_raise trivial
    · exact consumeCode_faultsPrecisely h
  · obtain ⟨f, rest, _, ⟨_, rfl⟩ | ⟨_, _, rfl⟩ | ⟨_, L, _, h⟩⟩ :=
      execHcodeB_eq_next (u := cacheMaxcode v) (g := cacheIgnored v) h
    · exact State.faultsPrecisely_raise trivial
    · exact State.faultsPrecisely_raise trivial
    · exact consumeCode_faultsPrecisely h

theorem exec_decodeEntryHeader_faultsPrecisely {x : U16} (h : exec (decodeEntryHeader x) s = .next t) :
    s.FaultsPrecisely t := by
  rcases decodeEntryHeader_cases x with ⟨_, e⟩ | ⟨_, e⟩ <;> rw [e] at h
  · rcases execEntLit_eq_next h with ⟨_, rfl⟩ | ⟨_, _, body, _, rfl⟩ | ⟨_, hfull, rfl⟩
    · exact State.faultsPrecisely_raise trivial
    · exact .inl ⟨id, rfl⟩
    · exact State.faultsPrecisely_raise (State.outOverflow_allowedBy hfull)
  · rcases execEntRec_eq_next h with ⟨_, rfl⟩ | ⟨_, _, rfl⟩ | ⟨_, hfull, rfl⟩
    · exact State.faultsPrecisely_raise trivial
    · exact .inl ⟨id, rfl⟩
    · exact State.faultsPrecisely_raise (State.guardOverflow_allowedBy hfull)

/-! The host's commands but RESET (R101, R105, R120, R161). -/

theorem exec_setHuff_faultsPrecisely {record : Bytes} (hs : s.status ≠ .fault)
    (h : exec (.setHuff record) s = .next t) : s.FaultsPrecisely t := by
  rcases Nat.lt_or_ge record.length 1304 with hshort | hlen
  · rw [exec_setHuff_of_short hs hshort] at h
    cases h
    exact State.faultsPrecisely_raise trivial
  · obtain ⟨cache, base, _, _, hexec⟩ := exec_setHuff_of_le hs hlen
    rw [hexec] at h
    refine faultsPrecisely_of_test h trivial fun h => faultsPrecisely_of_test h trivial fun h =>
      faultsPrecisely_of_test h trivial fun h => faultsPrecisely_of_test h trivial fun h => ?_
    cases h
    exact .inl ⟨by simp, rfl⟩

theorem exec_addCdic_faultsPrecisely {record : Bytes} (hs : s.status ≠ .fault)
    (h : exec (.addCdic record) s = .next t) : s.FaultsPrecisely t := by
  rcases Nat.lt_or_ge s.dictsCount 32 with hroom | hfull
  · rcases Nat.lt_or_ge record.length 16 with hshort | hlen
    · rw [exec_addCdic_of_short hs hroom hshort] at h
      cases h
      exact State.faultsPrecisely_raise trivial
    · obtain ⟨cl, _, hexec⟩ := exec_addCdic_of_le hs hroom hlen
      rw [hexec] at h
      refine faultsPrecisely_of_test h trivial fun h => faultsPrecisely_of_test h trivial fun h => ?_
      split at h
      · cases h
        exact .inl ⟨by simp, rfl⟩
      · cases h
        exact State.faultsPrecisely_raise trivial
  · rw [exec_addCdic_of_full hs hfull] at h
    cases h
    exact State.faultsPrecisely_raise trivial

/-- In FAULT every command but RESET ends in the same refusal (R161). -/
theorem exec_hostCmd_of_fault {c : HostCmd} (hc : c ≠ .reset) (hs : s.status = .fault) :
    exec c.instr s = .next s.refuse := by
  cases c with
  | reset => exact absurd rfl hc
  | setHuff record => exact enterCommand_of_fault hs _
  | addCdic record => exact enterCommand_of_fault hs _
  | decompPalm payload => exact enterCommand_of_fault hs fun t => .next (t.startLz payload)
  | decompHuff payload => exact enterCommand_of_fault hs _

/-- Outside FAULT and with no command running, each command has rules of its own; DECOMP_HUFF clears the warning flag
before its test. -/
theorem exec_hostCmd_faultsPrecisely {c : HostCmd} (hc : c ≠ .reset) (hb : s.status ≠ .busy)
    (h : exec c.instr s = .next t) : s.FaultsPrecisely t := by
  by_cases hs : s.status = .fault
  · rw [exec_hostCmd_of_fault hc hs] at h
    cases h
    exact .inl ⟨id, rfl⟩
  cases c with
  | reset => exact absurd rfl hc
  | setHuff record => exact exec_setHuff_faultsPrecisely hs h
  | addCdic record => exact exec_addCdic_faultsPrecisely hs h
  | decompPalm payload =>
    cases (decompPalmEntry payload s hs).symm.trans h
    exact .inl ⟨by simp, rfl⟩
  | decompHuff payload =>
    obtain ⟨hstart, hfault⟩ := decompHuffEntry payload s hs
    cases hv : s.huffValid with
    | true =>
      cases (hstart hv).symm.trans h
      exact .inl ⟨by simp, rfl⟩
    | false =>
      have hw : s.ReadyToFault s.clearWarn := ⟨rfl, fun e => absurd e hb⟩
      cases (hfault hv).symm.trans h
      exact hw.then (State.faultsPrecisely_raise trivial)

/-! The steps (R140 to R144, R191). -/

/-- A fault of the lookup is precise, since only HD latches were written before it (R148). -/
theorem faultsPrecisely_of_lookup_fault {f : FaultName} (hf : f.AllowedBy s.params) (h : step s = .next t)
    (hx : ∃ hd, step s = .next ({ s with hd := hd }.raise f s.hd.start)) : s.FaultsPrecisely t := by
  obtain ⟨hd, hx⟩ := hx
  cases h.symm.trans hx
  exact (s.readyToFault_hd hd).then (State.faultsPrecisely_raise hf)

/-- The first test of the lookup that fails raises its fault; when all pass, the entry runs. -/
theorem step_hdEntry_faultsPrecisely (hb : s.status = .busy) (he : s.engine = .hdEntry) (h : step s = .next t) :
    s.FaultsPrecisely t := by
  obtain ⟨hdict, hheld⟩ := lookupFaults s hb he
  by_cases hnot : s.clValid = false ∨ s.dictsCount ≤ splitDict s.codeLength s.hd.code
  · exact faultsPrecisely_of_lookup_fault (f := .hdBadDict) trivial h (hdict hnot)
  obtain ⟨hv, hlt⟩ := not_or.1 hnot
  rw [Bool.not_eq_false] at hv
  obtain ⟨D, hD⟩ : ∃ D, s.dicts[splitDict s.codeLength s.hd.code]? = some D :=
    ⟨_, List.getElem?_eq_getElem (Nat.not_le.1 hlt)⟩
  obtain ⟨hslot, hoff⟩ := hheld D hv hD
  rcases Nat.lt_or_ge D.length (2 * splitKey s.codeLength s.hd.code + 2) with hout | hin
  · exact faultsPrecisely_of_lookup_fault (f := .hdBadOffset) trivial h (hslot hout)
  obtain ⟨off, eo⟩ := memRead16_of_le hin
  obtain ⟨hhdr, hbody⟩ := hoff off eo
  rcases Nat.lt_or_ge D.length (off.toNat + 2) with hout | hin
  · exact faultsPrecisely_of_lookup_fault (f := .hdBadOffset) trivial h (hhdr hout)
  obtain ⟨x, ex⟩ := memRead16_of_le hin
  rcases Nat.lt_or_ge D.length (off.toNat + 2 + x.toNat % 32768) with hout | hin
  · exact faultsPrecisely_of_lookup_fault (f := .hdBadSymLen) trivial h (hbody x ex hout)
  obtain ⟨_, _, hrun⟩ := entryStepRunsDecoded s D off x hb he hv hD eo ex hin
  rw [hrun] at h
  exact (s.readyToFault_hd _).then (exec_decodeEntryHeader_faultsPrecisely h)

theorem step_faultsPrecisely (h : step s = .next t) :
    s.FaultsPrecisely t ∨ (∃ cs, s.host = .reset :: cs ∧ t.status = .idle ∧ t.faultCode = .none) := by
  by_cases hb : s.status = .busy
  · left
    cases he : s.engine with
    | lz =>
      rcases step_lz hb he h with ⟨_, rfl⟩ | ⟨_, i, rest, hd, h⟩
      · exact .inl ⟨by simp, rfl⟩
      · obtain ⟨pre, hi⟩ := encode_of_decodeLz hd
        have hl : s.ReadyToFault (s.latchControl s.input[s.ip]) := ⟨rfl, fun _ => rfl⟩
        exact hl.then (exec_lz_faultsPrecisely hi h)
    | hdCode =>
      rcases step_hdCode hb he h with ⟨_, rfl⟩ | ⟨f, rest, _, rfl | ⟨m, w, _, _, _, _, h⟩⟩
      · exact .inl ⟨by simp, rfl⟩
      · exact .inl s.noFaultEntry_returnFrame
      · have hl : s.ReadyToFault (s.latchWindow w s.cacheTable[cacheIndex w] f.bp) :=
          s.readyToFault_hd _
        exact hl.then (exec_decodeCacheWord_faultsPrecisely h)
    | hdEntry => exact step_hdEntry_faultsPrecisely hb he h
  · rcases step_command hb h with ⟨_, rfl⟩ | ⟨c, cs, hq, h⟩
    · exact .inl (.inl ⟨id, rfl⟩)
    · by_cases hc : c = .reset
      · subst hc
        cases h
        exact .inr ⟨cs, hq, rfl, rfl⟩
      · have hl : s.ReadyToFault (s.takeCommand cs) := ⟨rfl, fun _ => rfl⟩
        exact .inl (hl.then (exec_hostCmd_faultsPrecisely hc hb h))

end Precise

/-- Settles O45: RESET leaves FAULT, and every other step that enters it does so precisely. -/
theorem faultsArePrecise : Obligations.FaultsArePrecise := by
  intro s t h hs ht
  obtain (hno | ⟨u, f, pos, ⟨honly, hwarn⟩, hf, rfl⟩) | ⟨_, _, hidle, _⟩ := step_faultsPrecisely h
  · exact absurd (hno.status ht) hs
  · rw [honly]
    exact ⟨rfl, rfl, rfl, rfl, rfl, rfl, rfl, rfl, rfl, hf.ne_none, rfl, hwarn⟩
  · exact absurd (ht.symm.trans hidle) (by decide)

/-- Settles O46: in FAULT no command runs, so the unit waits, or takes a command and refuses all but RESET. -/
theorem faultIsSticky : Obligations.FaultIsSticky := by
  intro s t hs h
  have hb : s.status ≠ .busy := by simp [hs]
  rcases step_command hb h with ⟨_, rfl⟩ | ⟨c, cs, hq, h⟩
  · exact .inl rfl
  by_cases hc : c = .reset
  · subst hc
    cases h
    exact .inr ⟨cs, hq, rfl⟩
  · cases (exec_hostCmd_of_fault (s := s.takeCommand cs) hc hs).symm.trans h
    exact .inl rfl

/-- Settles O47: a step keeps the code, raises a fault that the default parameters allow, or was RESET. -/
theorem defaultFaultCodes : Obligations.DefaultFaultCodes := by
  refine ⟨fun s t hp hs h => ?_, fun f => List.mem_map_of_mem (f := fun f => f.code.toNat) f.mem_table,
    fun _ _ => FaultName.code_injective⟩
  obtain (hno | ⟨u, f, pos, _, hf, rfl⟩) | ⟨_, _, _, hnone⟩ := step_faultsPrecisely h
  · rw [hno.faultCode]
    exact hs
  · exact FaultName.not_mem_of_allowedBy_default (hp ▸ hf)
  · rw [hnone]
    decide

end Sys2Proof.Machine
end

section
/-! Proofs of the reset and hazard family (70_reset_and_hazards.md): the parameters, which no step writes (R211). -/

namespace Sys2Proof.Machine

open Sys2Proof

/-- RESET puts the parameters back as they were, and the other commands do not write them (R211). -/
theorem exec_hostCmd_params {c : HostCmd} {s t : State} (h : exec c.instr s = .next t) : t.params = s.params := by
  cases c with
  | reset =>
    cases (exec_reset s).symm.trans h
    rfl
  | setHuff record =>
    rcases enterCommand_eq_next h with ⟨_, rfl⟩ | ⟨_, h⟩
    · exact s.refuse_params
    · rcases setHuffBody_eq_next h with ⟨_, _, rfl⟩ | ⟨_, _, _, _, rfl⟩ <;> simp
  | addCdic record =>
    rcases enterCommand_eq_next h with ⟨_, rfl⟩ | ⟨_, h⟩
    · exact s.refuse_params
    · rcases addCdicBody_eq_next h with ⟨_, _, rfl⟩ | ⟨_, _, _, _, _, rfl⟩ <;> simp
  | decompPalm payload =>
    have h : execDecompPalm payload s = .next t := h
    rcases enterCommand_eq_next h with ⟨_, rfl⟩ | ⟨_, h⟩
    · exact s.refuse_params
    · cases h
      simp
  | decompHuff payload =>
    rcases enterCommand_eq_next h with ⟨_, rfl⟩ | ⟨_, h⟩
    · exact s.refuse_params
    · rcases decompHuffBody_eq_next h with ⟨_, rfl⟩ | ⟨_, rfl⟩ <;> simp

/-- Settles O55: a running command writes no configuration, and otherwise the unit waits or takes a host command. -/
theorem parametersFixed : Obligations.ParametersFixed := by
  intro s t h
  by_cases hb : s.status = .busy
  · obtain ⟨hc, _⟩ := step_busy_writes hb h
    exact hc.params
  · rcases step_command hb h with ⟨_, rfl⟩ | ⟨c, cs, _, h⟩
    · rfl
    · exact (exec_hostCmd_params h).trans (s.takeCommand_params cs)

end Sys2Proof.Machine
end
